-- ==== Sys2Proof/Word.lean ====
section
/-! DEFINITION. The units of data of the core: a byte (one field element), a word of four bytes, a block of
sixteen bytes in block order (00_scope.md R9, R11, R12, R15; 40_field_arithmetic.md R110). -/

namespace Sys2Proof

/-- A byte, b7 down to b0; as a field element bit i is the coefficient of x^i (R11, R110). -/
abbrev Byte := BitVec 8

/-- A key-schedule word: four bytes, `w[0]` the first (R12). -/
abbrev Word := Vector Byte 4

/-- Sixteen bytes in block order: a data block, a key, a round key, STATE, DOUT (R12). -/
abbrev Block := Vector Byte 16

/-- The round-key file RK[0..10] (10_state.md R32). -/
abbrev RoundKeys := Vector Block 11

end Sys2Proof
end

