-- ==== Sys2Proof/Syntax.lean ====
section
/-! DEFINITION. The instructions, one constructor per row of spec/opcode_table.json, and the three formats that
encode them (30_encoding.md R80, R90). -/

namespace Sys2Proof

/-- Every operation of the opcode table. The operands of a command are byte arrays in block order (R83); the
round index of KEXP and ARK is the raw four-bit field (R86), whose legal values WellFormed gives. -/
inductive Instr where
  | encrypt (key data : Block)
  | decrypt (key data : Block)
  | kexp (k : BitVec 4)
  | ark (k : BitVec 4)
  | sb
  | isb
  | sr
  | isr
  | mc
  | imc
  | fin
  | gfAdd (a b : Byte)
  | gfSub (a b : Byte)
  | gfMul (a b : Byte)
  deriving DecidableEq, Repr

/-- The three formats (R80). -/
inductive Format where
  | cmd
  | uop
  | gf
  deriving DecidableEq, Repr

/-- An encoded instruction: a word of one of the three formats (R81, R84, R88). -/
inductive Code where
  | cmd (w : BitVec 257)
  | uop (u : BitVec 8)
  | gf (w : BitVec 18)
  deriving DecidableEq, Repr

/-- Why a word encodes no instruction: the reserved encodings of R87 and R89. -/
inductive Reject where
  | reservedUop (u : BitVec 8)
  | reservedGfFunction (fsel : BitVec 2)
  deriving DecidableEq, Repr

end Sys2Proof
end

