-- ==== Sys2Proof/WellFormed.lean ====
section
/-! DEFINITION. The legal operands of each instruction (30_encoding.md R86). -/

namespace Sys2Proof

/-- The round index of KEXP is in 1..10 and that of ARK in 0..10; every other operand is legal at every value
(R82, R86, R89). -/
def wellFormed : Instr → Bool
  | .kexp k => 1 ≤ k.toNat && k.toNat ≤ 10
  | .ark k => k.toNat ≤ 10
  | .encrypt _ _ => true
  | .decrypt _ _ => true
  | .sb => true
  | .isb => true
  | .sr => true
  | .isr => true
  | .mc => true
  | .imc => true
  | .fin => true
  | .gfAdd _ _ => true
  | .gfSub _ _ => true
  | .gfMul _ _ => true

end Sys2Proof
end

