-- ==== Sys2Proof/Decode.lean ====
section
/-! DEFINITION. The bus byte order, the decoder of each format and, after it, the encoder
(20_memory.md R52, R53; 30_encoding.md R80 to R92). -/

namespace Sys2Proof

/-- The byte array of a 128-bit bus value: byte i is bits [127-8i : 120-8i] (R53, R83). -/
def bytes (v : BitVec 128) : Block :=
  Vector.ofFn fun i => v.extractLsb' (120 - 8 * i.val) 8

/-- The bus value of a byte array, byte 0 most significant (R53). -/
def bus (b : Block) : BitVec 128 :=
  b[0] ++ b[1] ++ b[2] ++ b[3] ++ b[4] ++ b[5] ++ b[6] ++ b[7] ++
    b[8] ++ b[9] ++ b[10] ++ b[11] ++ b[12] ++ b[13] ++ b[14] ++ b[15]

/-! ### Fields -/

/-- The op field of a command word, bit 256 (R81). -/
def cmdOpOf (w : BitVec 257) : BitVec 1 := w.extractLsb' 256 1

/-- The key operand of a command word, bits [255:128] (R81, R83). -/
def cmdKeyOf (w : BitVec 257) : Block := bytes (w.extractLsb' 128 128)

/-- The data operand of a command word, bits [127:0] (R81, R83). -/
def cmdDataOf (w : BitVec 257) : Block := bytes (w.extractLsb' 0 128)

/-- The opc field of a uop, bits [7:4] (R84). -/
def uopOpc (u : BitVec 8) : BitVec 4 := u.extractLsb' 4 4

/-- The round index of a uop, bits [3:0] (R84, R86). -/
def uopK (u : BitVec 8) : BitVec 4 := u.extractLsb' 0 4

/-- The function select of a GF word, bits [17:16] (R88). -/
def gfFsel (w : BitVec 18) : BitVec 2 := w.extractLsb' 16 2

/-- The first operand of a GF word, bits [15:8] (R88). -/
def gfA (w : BitVec 18) : Byte := w.extractLsb' 8 8

/-- The second operand of a GF word, bits [7:0] (R88). -/
def gfB (w : BitVec 18) : Byte := w.extractLsb' 0 8

/-! ### Decoding -/

/-- Every command word is valid: op 0 is ENCRYPT, op 1 is DECRYPT (R82). -/
def decodeCmd (w : BitVec 257) : Instr :=
  if cmdOpOf w = 0#1 then .encrypt (cmdKeyOf w) (cmdDataOf w)
  else .decrypt (cmdKeyOf w) (cmdDataOf w)

/-- A uop that has no round index must carry k = 0; with any other k it is reserved (R86, R87). -/
def decodePlain (u : BitVec 8) (i : Instr) : Except Reject Instr :=
  if uopK u = 0#4 then .ok i else .error (.reservedUop u)

/-- The uop opcode map (R85) with the legal round indices (R86); all else is reserved (R87). -/
def decodeUop (u : BitVec 8) : Except Reject Instr :=
  match (uopOpc u).toNat with
  | 0x1 =>
    if 1 ≤ (uopK u).toNat ∧ (uopK u).toNat ≤ 10 then .ok (.kexp (uopK u))
    else .error (.reservedUop u)
  | 0x2 => if (uopK u).toNat ≤ 10 then .ok (.ark (uopK u)) else .error (.reservedUop u)
  | 0x3 => decodePlain u .sb
  | 0x4 => decodePlain u .isb
  | 0x5 => decodePlain u .sr
  | 0x6 => decodePlain u .isr
  | 0x7 => decodePlain u .mc
  | 0x8 => decodePlain u .imc
  | 0x9 => decodePlain u .fin
  | _ => .error (.reservedUop u)

/-- The function select: 00 ADD, 01 SUB, 10 MUL, 11 reserved (R89). -/
def decodeGf (w : BitVec 18) : Except Reject Instr :=
  match (gfFsel w).toNat with
  | 0 => .ok (.gfAdd (gfA w) (gfB w))
  | 1 => .ok (.gfSub (gfA w) (gfB w))
  | 2 => .ok (.gfMul (gfA w) (gfB w))
  | _ => .error (.reservedGfFunction (gfFsel w))

/-- The decoder of every format. -/
def decode : Code → Except Reject Instr
  | .cmd w => .ok (decodeCmd w)
  | .uop u => decodeUop u
  | .gf w => decodeGf w

/-! ### Encoding -/

/-- A command word, op ++ key ++ data (R81). -/
def cmdWord (op : BitVec 1) (key data : BitVec 128) : BitVec 257 := op ++ key ++ data

/-- A uop, opc ++ k (R84, R92). -/
def uopWord (opc k : BitVec 4) : BitVec 8 := opc ++ k

/-- A GF word, fsel ++ a ++ b (R88). -/
def gfWord (fsel : BitVec 2) (a b : Byte) : BitVec 18 := fsel ++ a ++ b

/-- The word of an instruction, from the tables of R82, R85 and R89. -/
def encode : Instr → Code
  | .encrypt key data => .cmd (cmdWord 0#1 (bus key) (bus data))
  | .decrypt key data => .cmd (cmdWord 1#1 (bus key) (bus data))
  | .kexp k => .uop (uopWord 0x1#4 k)
  | .ark k => .uop (uopWord 0x2#4 k)
  | .sb => .uop (uopWord 0x3#4 0#4)
  | .isb => .uop (uopWord 0x4#4 0#4)
  | .sr => .uop (uopWord 0x5#4 0#4)
  | .isr => .uop (uopWord 0x6#4 0#4)
  | .mc => .uop (uopWord 0x7#4 0#4)
  | .imc => .uop (uopWord 0x8#4 0#4)
  | .fin => .uop (uopWord 0x9#4 0#4)
  | .gfAdd a b => .gf (gfWord 0b00#2 a b)
  | .gfSub a b => .gf (gfWord 0b01#2 a b)
  | .gfMul a b => .gf (gfWord 0b10#2 a b)

/-! ### Formats and the opcode table's numbering -/

/-- The format a word belongs to (R80). -/
def codeFormat : Code → Format
  | .cmd _ => .cmd
  | .uop _ => .uop
  | .gf _ => .gf

/-- The fixed length of each format in bits (R80, R90). -/
def formatBits : Format → Nat
  | .cmd => 257
  | .uop => 8
  | .gf => 18

/-- The word as a number, bit 0 least significant, as spec/opcode_table.json numbers it. -/
def codeNat : Code → Nat
  | .cmd w => w.toNat
  | .uop u => u.toNat
  | .gf w => w.toNat

/-- The format of each instruction (R80). -/
def instrFormat : Instr → Format
  | .encrypt _ _ => .cmd
  | .decrypt _ _ => .cmd
  | .kexp _ => .uop
  | .ark _ => .uop
  | .sb => .uop
  | .isb => .uop
  | .sr => .uop
  | .isr => .uop
  | .mc => .uop
  | .imc => .uop
  | .fin => .uop
  | .gfAdd _ _ => .gf
  | .gfSub _ _ => .gf
  | .gfMul _ _ => .gf

/-- A number of `nbits` bits as a word of the format that has that many bits in whole bytes (8, 24 and 264
bits); none where the number has a bit above its format's length. -/
def codeOfTable (nbits w : Nat) : Option Code :=
  if nbits ≤ 8 then (if w < 2 ^ 8 then some (.uop (BitVec.ofNat 8 w)) else none)
  else if nbits ≤ 24 then (if w < 2 ^ 18 then some (.gf (BitVec.ofNat 18 w)) else none)
  else (if w < 2 * 2 ^ 256 then some (.cmd (BitVec.ofNat 257 w)) else none)

/-- What the decoder reads from a word numbered as the opcode table numbers it. -/
def decodeTableWord (nbits w : Nat) : Option Instr :=
  match codeOfTable nbits w with
  | none => none
  | some c => (decode c).toOption

end Sys2Proof
end

