-- ==== Sys2Proof/Config.lean ====
section
/-! DEFINITION. What the spec leaves open: the parameters AES_CYCLES_PER_UOP and AES_INSTANCES, and the free
values. An opaque constant has no body, so a proof about one holds for every value of it. The tables the
spec calls configuration constants (10_state.md R34) are in Machine/Tables.lean. -/

namespace Sys2Proof

/-- One less than AES_CYCLES_PER_UOP (70_reset_and_hazards.md R270, open). -/
opaque Config.cyclesPerUopPred : Nat

/-- AES_CYCLES_PER_UOP, a positive integer. No rule of the model reads it (R269). -/
def Config.cyclesPerUop : Nat := Config.cyclesPerUopPred + 1

/-- AES_LATENCY, the constant latency of an implementation that does not take the reference's 51 uops at
AES_CYCLES_PER_UOP each (R270, open); none where it does. Log entry 11. -/
opaque Config.aesLatency : Option Nat

/-- The latency in clock cycles of every command, from the accepting edge to the rise of rsp_valid: the reference's,
or an implementation's own constant (R270). It is one number for every command, key and block (R271). -/
def Config.commandLatency : Nat := Config.aesLatency.getD (51 * Config.cyclesPerUop)

/-- One less than AES_INSTANCES (60_exceptions.md R240, open). -/
opaque Config.instancesPred : Nat

/-- AES_INSTANCES, the number of cores in the system, at least 1. -/
def Config.instances : Nat := Config.instancesPred + 1

/-- Free value: what rsp_data carries while rsp_valid = 0, at the n-th draw (70_reset_and_hazards.md R265).
Log entry 5. That it takes the count alone, so that cores and runs at one count read one value, is the model's choice
(log entry 19). -/
opaque Config.freeRspData : Nat → BitVec 128

/-- Free values: the registers at power-on, before the first reset (R262). Log entry 6. That they are the same for
every core that is powered on is the model's choice (log entry 19). -/
opaque Config.powerOnOp : BitVec 1
opaque Config.powerOnBusy : BitVec 1
opaque Config.powerOnRspv : BitVec 1
opaque Config.powerOnUpc : BitVec 6
opaque Config.powerOnState : Block
opaque Config.powerOnRk : RoundKeys
opaque Config.powerOnDout : Block

end Sys2Proof
end

