-- ==== Sys2Proof/Machine/State.lean ====
section
/-! DEFINITION. The state of the core, the input ports and the host beside it, and the reasons a step can stop
(10_state.md R20; 20_memory.md R51; 60_exceptions.md R233; 70_reset_and_hazards.md R262, R266). -/

namespace Sys2Proof.Machine

/-- A command as the host presents it on cmd_op, cmd_key and cmd_data (20_memory.md R51, 30_encoding.md R81). -/
structure Command where
  op : BitVec 1
  key : BitVec 128
  data : BitVec 128
  deriving DecidableEq, Repr

/-- The host's moves (70_reset_and_hazards.md R266): present or withdraw a command, sample an output (no effect,
20_memory.md R62), assert rst, release it again (R263), or do nothing. There is no move that reads or writes an
internal register. -/
inductive HostMove where
  | idle
  | sample
  | present (c : Command)
  | withdraw
  | assertReset
  | releaseReset
  deriving DecidableEq, Repr

/-- The core's registers, as 10_state.md R20 lists them, then the model's own fields: the input ports, the host's
coming moves, the field unit's inputs and output, and two bookkeeping fields. -/
structure State where
  /-- OP, 1 bit: 0 encrypt, 1 decrypt (R22). -/
  op : BitVec 1
  /-- BUSY, 1 bit: 1 while a command is processed (R23). -/
  busy : BitVec 1
  /-- RSPV, 1 bit: 1 while DOUT holds a valid result (R24). -/
  rspv : BitVec 1
  /-- UPC, 6 bits: the index of the next uop (R31). -/
  upc : BitVec 6
  /-- STATE, 16 bytes in block order (R25). -/
  state : Block
  /-- RK[0..10] (R32). -/
  rk : RoundKeys
  /-- DOUT, the last result (R30). -/
  dout : Block
  /-- The model's own: the first reset has happened (70_reset_and_hazards.md R262). Log entry 6. -/
  wasReset : Bool
  /-- The model's own: the level on the input port rst (20_memory.md R51). Log entry 3. -/
  rst : BitVec 1
  /-- The model's own: the command on the input ports; present exactly when cmd_valid = 1 (R51). Log entry 3. -/
  cmd : Option Command
  /-- The model's own: the host's coming moves, one after each event (R266). Log entry 4. -/
  script : List HostMove
  /-- The model's own: the levels on the field unit's inputs, fsel ++ a ++ b (30_encoding.md R88). The unit itself has
  no state: its output y is gfY, a function of these levels alone (40_field_arithmetic.md R111). Log entry 7. -/
  gfIn : BitVec 18
  /-- The model's own: the word on the unit's inputs is to be run as an instruction. Log entry 7. -/
  gfRun : Bool
  /-- The model's own: counts the draws of free values (70_reset_and_hazards.md R265). Log entry 5. -/
  draws : Nat
  deriving DecidableEq, Repr

/-- The model-only faults of 60_exceptions.md R233. The hardware has none; each stops the model where the spec
gives no effect, so each is safe. -/
inductive Fault where
  /-- Raised by step, and by KEXP and ARK with an illegal round index: a reserved uop encoding (30_encoding.md
  R87). Safe. -/
  | reservedUop (upc : BitVec 6) (uop : BitVec 8)
  /-- Raised by the field unit: fsel = 0b11 (30_encoding.md R89). Safe. -/
  | reservedGfFunction (fsel : BitVec 2)
  /-- Raised by step: UPC above 50 (10_state.md R31). Safe. -/
  | upcOutOfRange (upc : BitVec 6)
  /-- Raised by any event before the first reset (70_reset_and_hazards.md R262). Safe. -/
  | notReset
  deriving DecidableEq, Repr

/-- Why the model gives no meaning. -/
inductive Refusal where
  /-- An instruction without a meaning yet, refused in its arm of exec. Safe. No arm does so now. -/
  | notModelled (mnemonic : String)
  deriving DecidableEq, Repr

/-- The machine right after reset, rst released (10_state.md R39, 70_reset_and_hazards.md R260, R262). The four
control registers have the spec's values; STATE, RK and DOUT, which the spec leaves unspecified, are zero (log
entry 1, DESIGN CHOICE, unsafe); the model's own fields are quiet. -/
def State.reset : State where
  op := 0#1
  busy := 0#1
  rspv := 0#1
  upc := 0#6
  state := Vector.replicate 16 0#8
  rk := Vector.replicate 11 (Vector.replicate 16 0#8)
  dout := Vector.replicate 16 0#8
  wasReset := true
  rst := 0#1
  cmd := none
  script := []
  gfIn := 0#18
  gfRun := false
  draws := 0

/-- The machine at power-on, before the first reset: every register holds a free value (70_reset_and_hazards.md
R262), the same for every core powered on (log entry 19). The host drives rst at the given level. -/
def State.powerOn (rst : BitVec 1) : State where
  op := Config.powerOnOp
  busy := Config.powerOnBusy
  rspv := Config.powerOnRspv
  upc := Config.powerOnUpc
  state := Config.powerOnState
  rk := Config.powerOnRk
  dout := Config.powerOnDout
  wasReset := false
  rst := rst
  cmd := none
  script := []
  gfIn := 0#18
  gfRun := false
  draws := 0

end Sys2Proof.Machine
end

