-- ==== Sys2Proof/Machine/Flags.lean ====
section
/-! DEFINITION. The outputs of the core. It has no flags or condition codes (10_state.md R35, 40_field_arithmetic.md
R117): the status outputs are functions of the state, and reading one has no effect (20_memory.md R62). -/

namespace Sys2Proof.Machine

/-- The output busy (R35). -/
def busyOut (s : State) : BitVec 1 := s.busy

/-- The output cmd_ready: 1 exactly when BUSY = 0 and rst = 0 (R35). -/
def cmdReady (s : State) : BitVec 1 := if s.busy = 0#1 ∧ s.rst = 0#1 then 1#1 else 0#1

/-- The output rsp_valid (R35). -/
def rspValid (s : State) : BitVec 1 := s.rspv

/-- The output rsp_data: DOUT in bus order while rsp_valid = 1 (20_memory.md R51, R52), a free value otherwise
(70_reset_and_hazards.md R265; log entry 5). R265 gives the draw no law; that two cores, or two runs, with the same
count draws show the same value is the model's choice (log entry 19). -/
def rspData (s : State) : BitVec 128 :=
  if s.rspv = 1#1 then bus s.dout else Config.freeRspData s.draws

/-- The input cmd_valid (20_memory.md R51). -/
def cmdValid (s : State) : BitVec 1 := if s.cmd.isSome then 1#1 else 0#1

end Sys2Proof.Machine
end

