-- ==== Sys2Proof/Machine/Operands.lean ====
section
/-! DEFINITION. How rules index their operands: the state matrix and its columns (10_state.md R26 to R29), the words
of a round key (R33), byte-wise operations, and the internal read-only spaces (20_memory.md R55). -/

namespace Sys2Proof.Machine

/-! ### The state layout -/

/-- The state matrix of a block, s[r][c] = B[r + 4c] (R26). -/
def blockToState (b : Block) : Matrix4 :=
  Vector.ofFn fun r => Vector.ofFn fun c => b[r.val + 4 * c.val]'(by omega)

/-- The block of a state matrix, B[i] = s[i mod 4][i div 4] (R27). -/
def stateToBlock (s : Matrix4) : Block :=
  Vector.ofFn fun i => (s[i.val % 4]'(by omega))[i.val / 4]'(by omega)

/-- Column c of a block, and word c of a round key: bytes 4c to 4c + 3 (R29, R33). -/
def column (b : Block) (c : Fin 4) : Word :=
  Vector.ofFn fun r => b[4 * c.val + r.val]'(by omega)

/-- Row r of a block: bytes r, r + 4, r + 8, r + 12 (R29). -/
def row (b : Block) (r : Fin 4) : Word :=
  Vector.ofFn fun c => b[r.val + 4 * c.val]'(by omega)

/-- The block whose columns are the given words: word j to bytes 4j to 4j + 3 (R29, R33). -/
def ofColumns (w : Vector Word 4) : Block :=
  Vector.ofFn fun i => (w[i.val / 4]'(by omega))[i.val % 4]'(by omega)

/-- Word W[i] of the key schedule as a slice of the round-key file: W[4k + j] is word j of RK[k] (R33). -/
def scheduleSlice (rk : RoundKeys) (i : Fin 44) : Word :=
  column (rk[i.val / 4]'(by omega)) ⟨i.val % 4, by omega⟩

/-! ### The internal address spaces -/

/-- The internal read-only spaces (20_memory.md R55). -/
inductive Space where
  | sbox
  | invSbox
  | uprogEnc
  | uprogDec
  deriving DecidableEq, Repr

/-- The contents of a space. -/
def spaceContents : Space → List Byte
  | .sbox => sboxTable
  | .invSbox => invSboxTable
  | .uprogEnc => uprogEnc
  | .uprogDec => uprogDec

/-- MemRead(space, a, 1): entry a of the space, with no side effect; none where the address does not exist (R55,
00_scope.md R13). -/
def memRead (sp : Space) (a : Nat) : Option Byte := (spaceContents sp)[a]?

/-- The micro-program OP selects (43_sequencer.md R195, 10_state.md R22). -/
def programOf (op : BitVec 1) : Space := if op = 0#1 then .uprogEnc else .uprogDec

end Sys2Proof.Machine
end

