-- ==== Sys2Proof/Machine/Ops.lean ====
section
/-! DEFINITION. The named writes of the registers (10_state.md R38) and the shared operations: accept, finish and
reset. Each reads the old state whole (00_scope.md R14). The core takes no exception and returns from none
(60_exceptions.md R230, R236), so there is no operation for either. -/

namespace Sys2Proof.Machine

/-- An outcome whose state is not the machine's: the result of a step of State. -/
abbrev Result := Host.Outcome State Fault Refusal

/-- UPC <- UPC + 1, the step rule's advance (43_sequencer.md R195). -/
def advance (s : State) : State := { s with upc := s.upc + 1#6 }

/-- STATE <- b (10_state.md R25). -/
def writeState (b : Block) (s : State) : State := { s with state := b }

/-- RK[k] <- b (10_state.md R32). -/
def writeRoundKey (k : Nat) (h : k < 11) (b : Block) (s : State) : State :=
  { s with rk := s.rk.set k b }

/-- Drive the field unit's inputs (40_field_arithmetic.md R111). -/
def driveGf (fsel : BitVec 2) (a b : Byte) (s : State) : State := { s with gfIn := gfWord fsel a b }

/-- Accept (43_sequencer.md R192). DOUT and RK[1..10] are unchanged. -/
def accept (op : BitVec 1) (key data : Block) (s : State) : State :=
  { s with
    op := op
    rk := s.rk.set 0 key
    state := data
    upc := 0#6
    busy := 1#1
    rspv := 0#1 }

/-- The registers FIN writes (43_sequencer.md R196). -/
def finish (s : State) : State :=
  { s with dout := s.state, rspv := 1#1, busy := 0#1, upc := 0#6 }

/-- The reset event (70_reset_and_hazards.md R260). STATE, RK and DOUT are unchanged (log entry 2). After it the
core has been reset once (R262). -/
def resetEvent (s : State) : State :=
  { s with op := 0#1, busy := 0#1, rspv := 0#1, upc := 0#6, wasReset := true }

/-- A command: accepted when cmd_ready = 1 (43_sequencer.md R192); otherwise nothing changes and it stays on the
ports (R191). -/
def command (op : BitVec 1) (key data : Block) (s : State) : Result :=
  if cmdReady s = 1#1 then .next (accept op key data s) else .next s

/-- The common pattern of the round uops: STATE is replaced by a function of the old STATE, and UPC advances
(41_round_transformations.md R140). -/
def roundUop (f : Block → Block) (s : State) : Result :=
  .next (advance (writeState (f s.state) s))

/-- Change the state of an outcome that has one. -/
def mapNext (f : State → State) : Result → Result
  | .next s => .next (f s)
  | .fault e => .fault e
  | .refused r => .refused r

end Sys2Proof.Machine
end

