-- ==== Sys2Proof/Machine/Field.lean ====
section
/-! DEFINITION. The GF(2^8) field unit and its three operations (40_field_arithmetic.md). -/

namespace Sys2Proof.Machine

/-- Field addition (R112). -/
def gadd (a b : Byte) : Byte := a ^^^ b

/-- Field subtraction, the same function (R113). -/
def gsub (a b : Byte) : Byte := a ^^^ b

/-- Step (1) of the multiplication: for each set bit i of b, a shifted left by i is added into a 16-bit
accumulator (R114). -/
def carrylessProduct (a b : Byte) : BitVec 16 :=
  [0, 1, 2, 3, 4, 5, 6, 7].foldl
    (fun acc i => if b.getLsbD i then acc ^^^ (a.setWidth 16 <<< i) else acc) 0#16

/-- Step (2): wherever bit j from 14 down to 8 is set, the reduction polynomial 0x11B shifted to j is added
(R114). -/
def reduce (acc : BitVec 16) : BitVec 16 :=
  [14, 13, 12, 11, 10, 9, 8].foldl
    (fun acc j => if acc.getLsbD j then acc ^^^ (0x11B#16 <<< (j - 8)) else acc) acc

/-- Field multiplication modulo x^8 + x^4 + x^3 + x + 1 (R114). -/
def gmul (a b : Byte) : Byte := (reduce (carrylessProduct a b)).setWidth 8

/-- The unit's output for a function select and two operands; fsel = 0b11 is reserved (R111). -/
def gfUnit (fsel : BitVec 2) (a b : Byte) : Except Fault Byte :=
  match fsel.toNat with
  | 0 => .ok (gadd a b)
  | 1 => .ok (gsub a b)
  | 2 => .ok (gmul a b)
  | _ => .error (.reservedGfFunction fsel)

/-- The unit's output y: at every moment the function of the levels on its inputs, with no clock and no state (R111);
on fsel = 0b11 it raises ReservedGfFunction. -/
def gfY (s : State) : Except Fault Byte := gfUnit (gfFsel s.gfIn) (gfA s.gfIn) (gfB s.gfIn)

/-- A field-unit operation: its function select and operands stand on the unit's inputs, so that its result is on y
(R111). It has no flags and no other effect (R117). -/
def fieldOperation (fsel : BitVec 2) (a b : Byte) (s : State) : Result :=
  match gfUnit fsel a b with
  | .ok _ => .next (driveGf fsel a b s)
  | .error e => .fault e

/-- GF.ADD a, b (R112). -/
def execGfAdd (a b : Byte) (s : State) : Result := fieldOperation 0b00#2 a b s

/-- GF.SUB a, b (R113). -/
def execGfSub (a b : Byte) (s : State) : Result := fieldOperation 0b01#2 a b s

/-- GF.MUL a, b (R114). -/
def execGfMul (a b : Byte) (s : State) : Result := fieldOperation 0b10#2 a b s

end Sys2Proof.Machine
end

