-- ==== Sys2Proof/Machine/Round.lean ====
section
/-! DEFINITION. The round-transformation pipeline: SB, ISB, SR, ISR, MC, IMC and ARK
(41_round_transformations.md). -/

namespace Sys2Proof.Machine

/-- Byte-wise field addition of two byte arrays (00_scope.md R13, 40_field_arithmetic.md R118). -/
def xorBytes {n : Nat} (a b : Vector Byte n) : Vector Byte n :=
  Vector.ofFn fun i => gadd a[i] b[i]

/-- SubBytes: every byte replaced by its S-box image (R141). -/
def subBytes (b : Block) : Block := Vector.ofFn fun i => sbox b[i]

/-- InvSubBytes: every byte replaced by its InvS-box image (R142). -/
def invSubBytes (b : Block) : Block := Vector.ofFn fun i => invSbox b[i]

/-- ShiftRows: row r rotated left by r, in the flat form of R143. -/
def shiftRows (b : Block) : Block :=
  Vector.ofFn fun i => b[i.val % 4 + 4 * ((i.val / 4 + i.val % 4) % 4)]'(by omega)

/-- InvShiftRows: row r rotated right by r, in the flat form of R144; the difference is taken modulo 4. -/
def invShiftRows (b : Block) : Block :=
  Vector.ofFn fun i => b[i.val % 4 + 4 * ((i.val / 4 + 4 - i.val % 4) % 4)]'(by omega)

/-- The column-mixing function mix(M, col) (R145). -/
def mixColumn (m : Matrix4) (col : Word) : Word :=
  Vector.ofFn fun r =>
    gmul m[r][0] col[0] ^^^ gmul m[r][1] col[1] ^^^ gmul m[r][2] col[2] ^^^ gmul m[r][3] col[3]

/-- A matrix applied to each of the four columns independently (R146, R147). -/
def mixBlock (m : Matrix4) (b : Block) : Block :=
  ofColumns (Vector.ofFn fun c => mixColumn m (column b c))

/-- MixColumns (R146). -/
def mixColumns (b : Block) : Block := mixBlock matrixForward b

/-- InvMixColumns (R147). -/
def invMixColumns (b : Block) : Block := mixBlock matrixInverse b

/-- AddRoundKey: byte-wise field addition of the round key, in block order (R148). -/
def addRoundKey (b rk : Block) : Block := xorBytes b rk

/-- SB (R141). -/
def execSb (s : State) : Result := roundUop subBytes s

/-- ISB (R142). -/
def execIsb (s : State) : Result := roundUop invSubBytes s

/-- SR (R143). -/
def execSr (s : State) : Result := roundUop shiftRows s

/-- ISR (R144). -/
def execIsr (s : State) : Result := roundUop invShiftRows s

/-- MC (R146). -/
def execMc (s : State) : Result := roundUop mixColumns s

/-- IMC (R147). -/
def execImc (s : State) : Result := roundUop invMixColumns s

/-- ARK k, k in 0..10 (R148). Another k is a reserved encoding (30_encoding.md R87). -/
def execArk (k : BitVec 4) (s : State) : Result :=
  if h : k.toNat ≤ 10 then roundUop (fun b => addRoundKey b (s.rk[k.toNat]'(by omega))) s
  else .fault (.reservedUop s.upc (uopWord 0x2#4 k))

end Sys2Proof.Machine
end

