-- ==== Sys2Proof/Machine/KeySchedule.lean ====
section
/-! DEFINITION. The key-schedule expander: RotWord, SubWord, the g-function and KEXP (42_key_schedule.md). -/

namespace Sys2Proof.Machine

/-- RotWord: the word rotated left by one byte (R171). -/
def rotWord (w : Word) : Word := #v[w[1], w[2], w[3], w[0]]

/-- SubWord: each byte through the forward S-box (R172). -/
def subWord (w : Word) : Word := #v[sbox w[0], sbox w[1], sbox w[2], sbox w[3]]

/-- The g-function: the round constant is added to the first byte only (R173). -/
def gFunction (w : Word) (r : Nat) (h : 1 ≤ r ∧ r ≤ 10) : Word :=
  #v[gadd (subWord (rotWord w))[0] (rcon r h), (subWord (rotWord w))[1], (subWord (rotWord w))[2],
    (subWord (rotWord w))[3]]

/-- The round key after p, round k: the words n[0] to n[3] of R174, each from the one before. -/
def nextRoundKey (p : Block) (k : Nat) (h : 1 ≤ k ∧ k ≤ 10) : Block :=
  let n0 := xorBytes (column p 0) (gFunction (column p 3) k h)
  let n1 := xorBytes (column p 1) n0
  let n2 := xorBytes (column p 2) n1
  let n3 := xorBytes (column p 3) n2
  ofColumns #v[n0, n1, n2, n3]

/-- KEXP k, k in 1..10: RK[k] from RK[k-1], then UPC advances (R174). Another k is a reserved encoding
(30_encoding.md R87). -/
def execKexp (k : BitVec 4) (s : State) : Result :=
  if h : 1 ≤ k.toNat ∧ k.toNat ≤ 10 then
    .next (advance (writeRoundKey k.toNat (by omega)
      (nextRoundKey (s.rk[k.toNat - 1]'(by omega)) k.toNat h) s))
  else .fault (.reservedUop s.upc (uopWord 0x1#4 k))

end Sys2Proof.Machine
end

