-- ==== Sys2Proof/Machine/Sequencer.lean ====
section
/-! DEFINITION. The two commands and FIN (43_sequencer.md R192 to R196). A command's meaning is its accept; the 51
uops that follow are steps of their own (R193, R194). -/

namespace Sys2Proof.Machine

/-- ENCRYPT key, data: accept with OP = 0 (R193). -/
def execEncrypt (key data : Block) (s : State) : Result := command 0#1 key data s

/-- DECRYPT key, data: accept with OP = 1 (R194). -/
def execDecrypt (key data : Block) (s : State) : Result := command 1#1 key data s

/-- FIN: present the result (R196). -/
def execFin (s : State) : Result := .next (finish s)

end Sys2Proof.Machine
end

