-- ==== Sys2Proof/Machine/Dispatch.lean ====
section
/-! DEFINITION. The meaning of every instruction, one arm per constructor. -/

namespace Sys2Proof.Machine

def exec (i : Instr) (s : State) : Host.Outcome State Fault Refusal :=
  match i with
  | .encrypt key data => Sys2Proof.Machine.execEncrypt key data s
  | .decrypt key data => Sys2Proof.Machine.execDecrypt key data s
  | .kexp k => Sys2Proof.Machine.execKexp k s
  | .ark k => Sys2Proof.Machine.execArk k s
  | .sb => Sys2Proof.Machine.execSb s
  | .isb => Sys2Proof.Machine.execIsb s
  | .sr => Sys2Proof.Machine.execSr s
  | .isr => Sys2Proof.Machine.execIsr s
  | .mc => Sys2Proof.Machine.execMc s
  | .imc => Sys2Proof.Machine.execImc s
  | .fin => Sys2Proof.Machine.execFin s
  | .gfAdd a b => Sys2Proof.Machine.execGfAdd a b s
  | .gfSub a b => Sys2Proof.Machine.execGfSub a b s
  | .gfMul a b => Sys2Proof.Machine.execGfMul a b s

end Sys2Proof.Machine
end

