-- ==== Sys2Proof/Machine/Events.lean ====
section
/-! DEFINITION. Which event a state takes next, the fetch and decode it needs, and what follows it: the transfer of
the consumed input and the host's next move (43_sequencer.md R190, R195; 60_exceptions.md R235;
70_reset_and_hazards.md R262, R266). -/

namespace Sys2Proof.Machine

/-- Where an instruction comes from (30_encoding.md R80): the command port, the micro-program OP selects, or the
field unit's inputs. -/
inductive Source where
  | commandPort
  | microProgram
  | fieldUnit
  deriving DecidableEq, Repr

/-- The events of R190, with the model-only stops of 60_exceptions.md R233 and the idle state's having none. -/
inductive Event where
  /-- The reset event. -/
  | reset
  /-- An instruction runs: accept, step, or a field-unit operation. -/
  | run (src : Source) (i : Instr)
  /-- Idle and no command is presented. -/
  | idle
  /-- A model-only fault. -/
  | stop (f : Fault)
  deriving DecidableEq, Repr

/-- The command word a presented command makes on the ports (30_encoding.md R81). -/
def commandWord (c : Command) : BitVec 257 := cmdWord c.op c.key c.data

/-- The event of a fetched uop: decode it, or raise ReservedUop (43_sequencer.md R195). -/
def uopEvent (upc : BitVec 6) (u : BitVec 8) : Event :=
  match decodeUop u with
  | .ok i => .run .microProgram i
  | .error _ => .stop (.reservedUop upc u)

/-- The step rule's fetch from the micro-program OP selects; an index that does not exist raises UpcOutOfRange
before anything is decoded (R195, 60_exceptions.md R235). -/
def fetchEvent (s : State) : Event :=
  match memRead (programOf s.op) s.upc.toNat with
  | some u => uopEvent s.upc u
  | none => .stop (.upcOutOfRange s.upc)

/-- The event of a word on the field unit's inputs (40_field_arithmetic.md R111). -/
def fieldEvent (w : BitVec 18) : Event :=
  match decodeGf w with
  | .ok i => .run .fieldUnit i
  | .error _ => .stop (.reservedGfFunction (gfFsel w))

/-- Whether the field unit's inputs have the next event: a word there is to be run, or it carries the reserved
fsel = 0b11, on which a model faults (40_field_arithmetic.md R117; log entry 7). -/
def fieldWaits (s : State) : Bool := s.gfRun || gfFsel s.gfIn == 0b11#2

/-- The event of an idle core: accept, if a command is presented (R190, R192). -/
def idleEvent (s : State) : Event :=
  match s.cmd with
  | some c => .run .commandPort (decodeCmd (commandWord c))
  | none => .idle

/-- The event a state takes next (R190). Reset wins over everything (60_exceptions.md R235); any other event before
the first reset is NotReset (70_reset_and_hazards.md R262), and a step that only waits is taken to be one, which R262
does not say (log entry 6); the field unit's word is served next (log entry 7); then BUSY decides between step and
accept. -/
def nextEvent (s : State) : Event :=
  if s.rst = 1#1 then .reset
  else if s.wasReset = false then .stop .notReset
  else if fieldWaits s = true then fieldEvent s.gfIn
  else if s.busy = 1#1 then fetchEvent s
  else idleEvent s

/-- The transfer that ends with the event: an accepted command leaves the ports, and the field unit's word has
been run, while its levels stay on the inputs (20_memory.md R51; log entries 4 and 7). -/
def retire (src : Source) (s : State) : State :=
  match src with
  | .commandPort => { s with cmd := none }
  | .fieldUnit => { s with gfRun := false }
  | .microProgram => s

/-- The host's next move (70_reset_and_hazards.md R266). It never changes a payload that waits (R267): to present a
command while one is pending is put off until the pending one is accepted. The moves are taken in their order, so one
that is put off holds back all that stand behind it, a withdrawal and the moves of rst among them: behind a pending
command with rst = 1 it waits for ever. Both are the model's choice, which R266 leaves open (log entry 4). -/
def hostMove (s : State) : State :=
  match s.script with
  | [] => s
  | .idle :: rest => { s with script := rest }
  | .sample :: rest => { s with script := rest }
  | .present c :: rest => if s.cmd.isSome then s else { s with cmd := some c, script := rest }
  | .withdraw :: rest => { s with cmd := none, script := rest }
  | .assertReset :: rest => { s with rst := 1#1, script := rest }
  | .releaseReset :: rest => { s with rst := 0#1, script := rest }

/-- The end of an event: free values drawn afterwards are fresh, and the host moves. -/
def endEvent (s : State) : State := hostMove { s with draws := s.draws + 1 }

/-- What an event contributes to the observation (00_scope.md R19): an accepted command, or a response. -/
inductive Observation where
  | accepted (c : Command)
  | response (b : Block)
  deriving DecidableEq, Repr

/-- The observation of the event a state takes next; `t` is the state after it. A response is DOUT when FIN has
run (43_sequencer.md R203). -/
def observe (s t : State) : List Observation :=
  match nextEvent s, s.cmd with
  | .run .commandPort _, some c => [.accepted c]
  | .run .microProgram .fin, _ => [.response t.dout]
  | _, _ => []

/-! ### Placing an instruction where the next step fetches it -/

/-- The first index of a byte in a micro-program. -/
def indexIn (p : List Byte) (u : Byte) : Option Nat := p.findIdx? (· == u)

/-- Select a micro-program and an index that hold the given uop: the micro-programs are read-only (20_memory.md R67),
so a uop is run by pointing OP and UPC at it. A reserved uop stands nowhere and changes nothing (log entry 8). -/
def selectUop (u : Byte) (s : State) : State :=
  match indexIn uprogEnc u with
  | some n => { s with op := 0#1, upc := BitVec.ofNat 6 n, busy := 1#1, gfIn := 0#18, gfRun := false }
  | none =>
    match indexIn uprogDec u with
    | some n => { s with op := 1#1, upc := BitVec.ofNat 6 n, busy := 1#1, gfIn := 0#18, gfRun := false }
    | none => s

/-- Put a word where the next event takes it: a command on the ports of an idle core, a uop under UPC, an operation
on the field unit's inputs; the core is out of reset. -/
def placeCode (c : Code) (s : State) : State :=
  let s := { s with rst := 0#1, wasReset := true }
  match c with
  | .cmd w =>
    { s with
      busy := 0#1
      gfIn := 0#18
      gfRun := false
      cmd := some ⟨cmdOpOf w, w.extractLsb' 128 128, w.extractLsb' 0 128⟩ }
  | .uop u => selectUop u s
  | .gf w => { s with gfIn := w, gfRun := true }

end Sys2Proof.Machine
end

