-- ==== Sys2Proof/Machine/Step.lean ====
section
/-! DEFINITION. One step of the machine: one event of the core (43_sequencer.md R190), then the host's next move. -/

namespace Sys2Proof.Machine

/-- One event. An instruction that runs is `exec` of it; a model-only fault stops the machine. -/
def step (s : State) : Host.Outcome State Fault Refusal :=
  match nextEvent s with
  | .reset => .next (endEvent (resetEvent s))
  | .idle => .next (endEvent s)
  | .stop f => .fault f
  | .run src i => mapNext (fun t => endEvent (retire src t)) (exec i s)

/-- `s` with the instruction of a table word stored where `step` fetches next; a word that is longer than its format
changes nothing. -/
def State.withFetchWord (s : State) (nbits w : Nat) : State :=
  match codeOfTable nbits w with
  | some c => placeCode c s
  | none => s

end Sys2Proof.Machine
end

