-- ==== Sys2Proof/Machine/Assembly.lean ====
section
/-! DEFINITION. The written form of instructions and the pseudo-instructions (30_encoding.md R91 to R94). -/

namespace Sys2Proof.Machine

/-- A lower-case hex digit. -/
def hexDigit (n : Nat) : Char :=
  ['0', '1', '2', '3', '4', '5', '6', '7', '8', '9', 'a', 'b', 'c', 'd', 'e', 'f'].getD (n % 16) '0'

/-- A byte as two hex digits. -/
def hexByte (b : Byte) : List Char := [hexDigit (b.toNat / 16), hexDigit (b.toNat % 16)]

/-- A block as 32 hex digits, byte 0 first (00_scope.md R12). -/
def hexBlock (b : Block) : List Char := b.toList.flatMap hexByte

/-- A round index in decimal (R92). -/
def decimalIndex (k : BitVec 4) : List Char :=
  if k.toNat < 10 then [hexDigit k.toNat] else ['1', hexDigit (k.toNat - 10)]

/-- The two operands of a command (R91). -/
def commandOperands (key data : Block) : List Char :=
  [' ', 'k', 'e', 'y', '='] ++ hexBlock key ++ [',', ' ', 'd', 'a', 't', 'a', '='] ++ hexBlock data

/-- The two operands of a field-unit operation (R93). -/
def fieldOperands (a b : Byte) : List Char :=
  [' ', '0', 'x'] ++ hexByte a ++ [',', ' ', '0', 'x'] ++ hexByte b

/-- The written form of an instruction (R91, R92, R93). -/
def written : Instr → List Char
  | .encrypt key data => ['E', 'N', 'C', 'R', 'Y', 'P', 'T'] ++ commandOperands key data
  | .decrypt key data => ['D', 'E', 'C', 'R', 'Y', 'P', 'T'] ++ commandOperands key data
  | .kexp k => ['K', 'E', 'X', 'P', ' '] ++ decimalIndex k
  | .ark k => ['A', 'R', 'K', ' '] ++ decimalIndex k
  | .sb => ['S', 'B']
  | .isb => ['I', 'S', 'B']
  | .sr => ['S', 'R']
  | .isr => ['I', 'S', 'R']
  | .mc => ['M', 'C']
  | .imc => ['I', 'M', 'C']
  | .fin => ['F', 'I', 'N']
  | .gfAdd a b => ['G', 'F', '.', 'A', 'D', 'D'] ++ fieldOperands a b
  | .gfSub a b => ['G', 'F', '.', 'S', 'U', 'B'] ++ fieldOperands a b
  | .gfMul a b => ['G', 'F', '.', 'M', 'U', 'L'] ++ fieldOperands a b

/-- The round of an ENC_ROUND or DEC_ROUND, which is in 1..9 (R94): no other round can be written. -/
structure PseudoRound where
  index : BitVec 4
  legal : 1 ≤ index.toNat ∧ index.toNat ≤ 9
  deriving DecidableEq, Repr

/-- The rounds of R94, in rising order. -/
def pseudoRounds : List PseudoRound :=
  [⟨1#4, by decide⟩, ⟨2#4, by decide⟩, ⟨3#4, by decide⟩, ⟨4#4, by decide⟩, ⟨5#4, by decide⟩, ⟨6#4, by decide⟩,
    ⟨7#4, by decide⟩, ⟨8#4, by decide⟩, ⟨9#4, by decide⟩]

/-- The pseudo-instructions (R94). There are no others. -/
inductive Pseudo where
  | kexpand
  | encRound (r : PseudoRound)
  | encFinal
  | decRound (r : PseudoRound)
  | decFinal
  deriving DecidableEq, Repr

/-- The written form of a pseudo-instruction (R94). -/
def writtenPseudo : Pseudo → List Char
  | .kexpand => ['K', 'E', 'X', 'P', 'A', 'N', 'D']
  | .encRound r => ['E', 'N', 'C', '_', 'R', 'O', 'U', 'N', 'D', ' '] ++ decimalIndex r.index
  | .encFinal => ['E', 'N', 'C', '_', 'F', 'I', 'N', 'A', 'L']
  | .decRound r => ['D', 'E', 'C', '_', 'R', 'O', 'U', 'N', 'D', ' '] ++ decimalIndex r.index
  | .decFinal => ['D', 'E', 'C', '_', 'F', 'I', 'N', 'A', 'L']

/-- The uops a pseudo-instruction stands for (R94). -/
def expand : Pseudo → List Instr
  | .kexpand =>
    [.kexp 1#4, .kexp 2#4, .kexp 3#4, .kexp 4#4, .kexp 5#4, .kexp 6#4, .kexp 7#4, .kexp 8#4, .kexp 9#4,
      .kexp 10#4]
  | .encRound r => [.sb, .sr, .mc, .ark r.index]
  | .encFinal => [.sb, .sr, .ark 10#4]
  | .decRound r => [.isr, .isb, .ark r.index, .imc]
  | .decFinal => [.isr, .isb, .ark 0#4]

end Sys2Proof.Machine
end

