-- ==== Sys2Proof/Machine/System.lean ====
section
/-! DEFINITION. Several cores in one system: AES_INSTANCES of them, each with its own registers, sharing no mutable
state (60_exceptions.md R240, 00_scope.md R18). -/

namespace Sys2Proof.Machine

/-- The cores of a system; no core has an identifier of its own but its place here. -/
structure System where
  cores : List State
  deriving DecidableEq, Repr

/-- Every core right after its reset. All have the count draws at 0, so all show one free value on rsp_data: the
model's choice, not the spec's (log entry 19). -/
def systemReset : System := ⟨List.replicate Config.instances State.reset⟩

/-- One event of core `n`, the others standing still (log entry 12). A place that holds no core has no event.
A model-only fault of core `n` ends the whole system: the spec does not say what it does to the other cores, and that
it stops them is the model's choice (log entry 20). -/
def systemStep (n : Nat) (sys : System) : Host.Outcome System Fault Refusal :=
  match sys.cores[n]? with
  | none => .next sys
  | some s =>
    match step s with
    | .next t => .next ⟨sys.cores.set n t⟩
    | .fault f => .fault f
    | .refused r => .refused r

end Sys2Proof.Machine
end

