-- ==== Sys2Proof/Machine/Cipher.lean ====
section
/-! DEFINITION. The functions the commands compute, as the source defines them (42_key_schedule.md R175;
43_sequencer.md R200, R201). -/

namespace Sys2Proof.Machine

/-- Round key k of a key: round key 0 is the key, and each other is expanded from the one before (R175, R176). -/
def roundKey (key : Block) : (k : Nat) → k ≤ 10 → Block
  | 0, _ => key
  | k + 1, h => nextRoundKey (roundKey key k (by omega)) (k + 1) ⟨by omega, h⟩

/-- generateSubkeys(key) (R175). -/
def generateSubkeys (key : Block) : RoundKeys :=
  Vector.ofFn fun k => roundKey key k.val (by omega)

/-- The words W[n], W[n+1], W[n+2], W[n+3] of the schedule, by the source's recurrence for i = n + 4 (R174, R175):
W[i] is W[i-4] plus gFunction(W[i-1], i/4) when i mod 4 = 0, and W[i-4] plus W[i-1] otherwise. -/
def scheduleWindow (key : Block) : (n : Nat) → n ≤ 40 → Vector Word 4
  | 0, _ => #v[column key 0, column key 1, column key 2, column key 3]
  | n + 1, h =>
    let w := scheduleWindow key n (by omega)
    let t := if h4 : (n + 4) % 4 = 0 then gFunction w[3] ((n + 4) / 4) ⟨by omega, by omega⟩ else w[3]
    #v[w[1], w[2], w[3], xorBytes w[0] t]

/-- Word W[i] of the schedule of a key, by the source's recurrence (R175). -/
def scheduleWord (key : Block) (i : Fin 44) : Word :=
  if h : i.val < 4 then column key ⟨i.val, h⟩ else (scheduleWindow key (i.val - 3) (by omega))[3]

/-- The rounds 1 to 9, as indices of round keys. -/
def middleRounds : List (Fin 11) := [1, 2, 3, 4, 5, 6, 7, 8, 9]

/-- encryptBlock(b, key) (R200). -/
def encryptBlock (b key : Block) : Block :=
  let rk := generateSubkeys key
  let s := addRoundKey b rk[0]
  let s := middleRounds.foldl
    (fun s round => addRoundKey (mixColumns (shiftRows (subBytes s))) rk[round]) s
  addRoundKey (shiftRows (subBytes s)) rk[10]

/-- decryptBlock(b, key) (R201). -/
def decryptBlock (b key : Block) : Block :=
  let rk := generateSubkeys key
  let s := addRoundKey b rk[10]
  let s := middleRounds.reverse.foldl
    (fun s round => invMixColumns (addRoundKey (invSubBytes (invShiftRows s)) rk[round])) s
  addRoundKey (invSubBytes (invShiftRows s)) rk[0]

/-- The response to a command: its op selects the function (43_sequencer.md R193, R194). -/
def cipher (op : BitVec 1) (key data : Block) : Block :=
  if op = 0#1 then encryptBlock data key else decryptBlock data key

end Sys2Proof.Machine
end

