-- ==== Sys2Proof/Safety.lean ====
section
/-! DEFINITION. What counts as a good state and a good run, in the terms the claims use: the invariants of
10_state.md R40, and the observation of 00_scope.md R19. -/

namespace Sys2Proof.Machine

/-- 10_state.md R40 (a): a result is presented only while the core is not busy. -/
abbrev responseOnlyIdle (s : State) : Prop := s.rspv = 1#1 → s.busy = 0#1

/-- 10_state.md R40 (b): an idle core stands at UPC = 0. -/
abbrev idleAtStart (s : State) : Prop := s.busy = 0#1 → s.upc = 0#6

/-- 10_state.md R40 (c): UPC is at most 50. -/
abbrev upcInRange (s : State) : Prop := s.upc.toNat ≤ 50

/-- The control invariants of R40 together. -/
abbrev ControlInvariant (s : State) : Prop := responseOnlyIdle s ∧ idleAtStart s ∧ upcInRange s

/-- 10_state.md R40 (d), with the values 42_key_schedule.md R175 gives: while a command runs at UPC = u, the round
keys RK[0..min(u,10)] are those of the key in RK[0]. -/
abbrev ScheduleInvariant (s : State) : Prop :=
  s.busy = 1#1 → ∀ k : Fin 11, k.val ≤ s.upc.toNat → s.rk[k] = (generateSubkeys s.rk[0])[k]

/-- The host has no reset on the way: rst is released and none of its coming moves asserts it. -/
abbrev noResetAhead (s : State) : Prop := s.rst = 0#1 ∧ HostMove.assertReset ∉ s.script

/-- The core has been reset once and the field unit's inputs are quiet, as in every state a run from reset
reaches: no word there is to be run, and none carries the reserved fsel. Both are of the model's own fields (log
entries 6 and 7). -/
abbrev ready (s : State) : Prop := s.wasReset = true ∧ fieldWaits s = false

/-- Idle: BUSY = 0 and UPC = 0 (43_sequencer.md R190). -/
abbrev isIdle (s : State) : Prop := s.busy = 0#1 ∧ s.upc = 0#6

/-- Two states with the same registers, those of 10_state.md R20. -/
abbrev sameRegisters (s t : State) : Prop :=
  s.op = t.op ∧ s.busy = t.busy ∧ s.rspv = t.rspv ∧ s.upc = t.upc ∧ s.state = t.state ∧ s.rk = t.rk ∧ s.dout = t.dout

/-- A list of instructions run one after another, stopping at the first fault or refusal. -/
def execAll : List Instr → State → Result
  | [], s => .next s
  | i :: rest, s =>
    match exec i s with
    | .next t => execAll rest t
    | .fault f => .fault f
    | .refused r => .refused r

/-- The observation of the first `n` events of a run (00_scope.md R19); a fault ends it. -/
def observations : Nat → State → List Observation
  | 0, _ => []
  | n + 1, s =>
    match step s with
    | .next t => observe s t ++ observations n t
    | .fault _ => []
    | .refused _ => []

end Sys2Proof.Machine
end

