-- ==== Sys2Proof/Certificates/Slice0/Obligations.lean ====
section
/-! DEFINITION. The statements for the provers, each formalising rules of the spec. -/

open Sys2Proof Sys2Proof.Machine

/-! ### Terms the statements share -/

/-- The frame of a round uop: only STATE and UPC may differ, and UPC is one more (41_round_transformations.md R140,
43_sequencer.md R195). -/
def Sys2Proof.Claims.roundFrame (s t : State) : Prop := t = { s with state := t.state, upc := s.upc + 1#6 }

/-- Entry [r][j] of the circulant matrix whose first row is `l`. -/
def Sys2Proof.Claims.circulant (l : Word) (r j : Fin 4) : Byte := l[(j.val + 4 - r.val) % 4]'(by omega)

/-- The event is an accept. -/
def Sys2Proof.Claims.isAccept (e : Event) : Prop := ∃ i, e = .run .commandPort i

/-- The instruction is a round uop that writes STATE. -/
def Sys2Proof.Claims.writesState : Instr → Prop
  | .sb => True
  | .isb => True
  | .sr => True
  | .isr => True
  | .mc => True
  | .imc => True
  | .ark _ => True
  | _ => False

/-- UPROG_ENC and UPROG_DEC as the pseudo-instructions of 30_encoding.md R94 (43_sequencer.md R197, R198). -/
def Sys2Proof.Claims.encryptProgram : List Instr :=
  expand .kexpand ++ [.ark 0#4] ++
    (pseudoRounds.flatMap fun r => expand (.encRound r)) ++
    expand .encFinal ++ [.fin]

def Sys2Proof.Claims.decryptProgram : List Instr :=
  expand .kexpand ++ [.ark 10#4] ++
    (pseudoRounds.reverse.flatMap fun r => expand (.decRound r)) ++
    expand .decFinal ++ [.fin]

open Sys2Proof.Claims

/-! ### Encodings -/

/-- Decoding the word of a well-formed instruction gives the instruction back (30_encoding.md R80 to R90). -/
def Obligations.DecodeOfEncodeIsTheInstruction : Prop :=
  ∀ i : Instr, wellFormed i = true → decode (encode i) = .ok i

/-- A word that decodes is the word of what it decodes to, and that instruction is well formed: no two words stand
for one instruction (30_encoding.md R80 to R90). -/
def Obligations.EncodeOfDecodeIsTheWord : Prop :=
  ∀ (c : Code) (i : Instr), decode c = .ok i → wellFormed i = true ∧ encode i = c

/-- Words written out from the spec's encodings decode to what they stand for (30_encoding.md R85, R88, R92). -/
def Obligations.SpecWordsDecode : Prop :=
  decode (.uop 0b00010011#8) = .ok (.kexp 3#4) ∧ decode (.uop 0b00101010#8) = .ok (.ark 10#4) ∧
  decode (.uop 0b00110000#8) = .ok .sb ∧ decode (.uop 0b10010000#8) = .ok .fin ∧
  decode (.gf 0b000101011110000011#18) = .ok (.gfAdd 0x57#8 0x83#8) ∧
  decode (.gf 0b100101011110000011#18) = .ok (.gfMul 0x57#8 0x83#8)

/-- 30_encoding.md R87: which uops are reserved, that the micro-programs contain none, that nothing else reaches the
sequencer, and that one that is met raises ReservedUop. -/
def Obligations.ReservedUopsAreTheListedOnes : Prop :=
  (∀ (u : BitVec 8) (upc : BitVec 6),
    ((u.toNat / 16 = 0 ∨ 10 ≤ u.toNat / 16) ∨
     (u.toNat / 16 = 1 ∧ (u.toNat % 16 = 0 ∨ 10 < u.toNat % 16)) ∨
     (u.toNat / 16 = 2 ∧ 10 < u.toNat % 16) ∨
     (3 ≤ u.toNat / 16 ∧ u.toNat / 16 ≤ 9 ∧ u.toNat % 16 ≠ 0)) ↔ uopEvent upc u = .stop (.reservedUop upc u)) ∧
  (∀ u : BitVec 8, u ∈ uprogEnc ∨ u ∈ uprogDec → ∃ i, decodeUop u = .ok i) ∧
  (∀ (s : State) (i : Instr), nextEvent s = .run .microProgram i →
    ∃ u : BitVec 8, (u ∈ uprogEnc ∨ u ∈ uprogDec) ∧ decodeUop u = .ok i)

/-- KEXP and ARK with an illegal round index raise ReservedUop with the uop's own byte (30_encoding.md R86, R87). -/
def Obligations.IllegalRoundIndexFaults : Prop :=
  ∀ (k : BitVec 4) (s : State),
    (k.toNat = 0 ∨ 10 < k.toNat → exec (.kexp k) s = .fault (.reservedUop s.upc (BitVec.ofNat 8 (0x10 + k.toNat)))) ∧
    (10 < k.toNat → exec (.ark k) s = .fault (.reservedUop s.upc (BitVec.ofNat 8 (0x20 + k.toNat))))

/-- 30_encoding.md R81, R82, R83: every 257-bit word is a command; bit 256 selects it, key byte i is bits
[255-8i:248-8i] and data byte i is bits [127-8i:120-8i]; from the ports, the word is cmd_op ++ cmd_key ++ cmd_data. -/
def Obligations.EveryCommandWordDecodes : Prop :=
  (∀ w : BitVec 257, ∃ K D : Block,
    decode (.cmd w) = .ok (if w.getLsbD 256 then .decrypt K D else .encrypt K D) ∧
    ∀ i : Fin 16, K[i] = w.extractLsb' (248 - 8 * i.val) 8 ∧ D[i] = w.extractLsb' (120 - 8 * i.val) 8) ∧
  (∀ c : Command, ∃ K D : Block,
    decode (.cmd (c.op ++ c.key ++ c.data)) = .ok (if c.op = 1#1 then .decrypt K D else .encrypt K D) ∧
    ∀ i : Fin 16, K[i] = c.key.extractLsb' (120 - 8 * i.val) 8 ∧ D[i] = c.data.extractLsb' (120 - 8 * i.val) 8)

/-- 30_encoding.md R88, R89: the fields of a GF word and its function select; fsel = 0b11 raises
ReservedGfFunction. The last clause is the model's choice, not R88's or R89's (log entry 7): no step changes the
levels in gfIn, or asks that the word there be run, since the uses of the unit inside MC, IMC, ARK and KEXP
(40_field_arithmetic.md R118) are of copies that do not show there. -/
def Obligations.FieldWordsDecode : Prop :=
  (∀ w : BitVec 18,
    (w.extractLsb' 16 2 = 0b00#2 → decode (.gf w) = .ok (.gfAdd (w.extractLsb' 8 8) (w.extractLsb' 0 8))) ∧
    (w.extractLsb' 16 2 = 0b01#2 → decode (.gf w) = .ok (.gfSub (w.extractLsb' 8 8) (w.extractLsb' 0 8))) ∧
    (w.extractLsb' 16 2 = 0b10#2 → decode (.gf w) = .ok (.gfMul (w.extractLsb' 8 8) (w.extractLsb' 0 8))) ∧
    (w.extractLsb' 16 2 = 0b11#2 → fieldEvent w = .stop (.reservedGfFunction 0b11#2))) ∧
  (∀ s t : State, step s = .next t → t.gfIn = s.gfIn ∧ (t.gfRun = true → s.gfRun = true))

/-- 30_encoding.md R94: the pseudo-instructions and their bytes, the rounds of ENC_ROUND and DEC_ROUND being 1 to 9;
there are no others. -/
def Obligations.PseudoInstructionsExpand : Prop :=
  (expand .kexpand).map encode = [0x11#8, 0x12#8, 0x13#8, 0x14#8, 0x15#8, 0x16#8, 0x17#8, 0x18#8, 0x19#8, 0x1A#8].map .uop ∧
  (∀ (r : BitVec 4) (h : 1 ≤ r.toNat ∧ r.toNat ≤ 9),
    (expand (.encRound ⟨r, h⟩)).map encode = [0x30#8, 0x50#8, 0x70#8, BitVec.ofNat 8 (0x20 + r.toNat)].map .uop ∧
    (expand (.decRound ⟨r, h⟩)).map encode = [0x60#8, 0x40#8, BitVec.ofNat 8 (0x20 + r.toNat), 0x80#8].map .uop) ∧
  (expand .encFinal).map encode = [0x30#8, 0x50#8, 0x2A#8].map .uop ∧
  (expand .decFinal).map encode = [0x60#8, 0x40#8, 0x20#8].map .uop ∧
  (∀ p : Pseudo, p = .kexpand ∨ p = .encFinal ∨ p = .decFinal ∨
    ∃ (r : BitVec 4) (h : 1 ≤ r.toNat ∧ r.toNat ≤ 9), p = .encRound ⟨r, h⟩ ∨ p = .decRound ⟨r, h⟩)

/-! ### Ports and layout -/

/-- 20_memory.md R53: `bytes` and `bus` place byte i in bits [127-8i : 120-8i] and are inverses. -/
def Obligations.BytesAndBusAreInverse : Prop :=
  (∀ (v : BitVec 128) (i : Fin 16), (bytes v)[i] = v.extractLsb' (120 - 8 * i.val) 8) ∧
  (∀ v : BitVec 128, bus (bytes v) = v) ∧ (∀ b : Block, bytes (bus b) = b)

/-- 10_state.md R26, R27, R28: the layout maps and that they are inverses of each other. -/
def Obligations.LayoutMapsAreInverse : Prop :=
  (∀ (b : Block) (r c : Fin 4), ((blockToState b)[r])[c] = b[r.val + 4 * c.val]'(by omega)) ∧
  (∀ (m : Matrix4) (i : Fin 16), (stateToBlock m)[i] = (m[i.val % 4]'(by omega))[i.val / 4]'(by omega)) ∧
  (∀ b : Block, stateToBlock (blockToState b) = b) ∧ (∀ m : Matrix4, blockToState (stateToBlock m) = m)

/-- 10_state.md R35: the status outputs, and what writes BUSY and RSPV: FIN, accept, and no other uop. -/
def Obligations.StatusOutputsFollowTheState : Prop :=
  (∀ s : State, busyOut s = s.busy ∧ (cmdReady s = 1#1 ↔ s.busy = 0#1 ∧ s.rst = 0#1) ∧ rspValid s = s.rspv) ∧
  (∀ (s t : State) (i : Instr), instrFormat i = .uop → i ≠ .fin → exec i s = .next t →
    t.busy = s.busy ∧ t.rspv = s.rspv) ∧
  (∀ s : State, ∃ t, exec .fin s = .next t ∧ t.rspv = 1#1 ∧ t.busy = 0#1) ∧
  (∀ (s : State) (K D : Block), s.busy = 0#1 → s.rst = 0#1 →
    (∃ t, exec (.encrypt K D) s = .next t ∧ t.busy = 1#1 ∧ t.rspv = 0#1) ∧
    (∃ t, exec (.decrypt K D) s = .next t ∧ t.busy = 1#1 ∧ t.rspv = 0#1))

/-- 10_state.md R24, 20_memory.md R51, R52: while RSPV = 1, byte i of DOUT is on bits [127-8i : 120-8i] of
rsp_data. -/
def Obligations.ResponsePortShowsDout : Prop :=
  ∀ (s : State) (i : Fin 16), s.rspv = 1#1 → (rspData s).extractLsb' (120 - 8 * i.val) 8 = s.dout[i]

/-! ### The field unit -/

/-- 40_field_arithmetic.md R112, R113: addition and subtraction are exclusive or. -/
def Obligations.FieldAdditionAndSubtractionAreXor : Prop :=
  (∀ a b : Byte, encode (.gfAdd a b) = .gf (0b00#2 ++ a ++ b) ∧ gfUnit 0b00#2 a b = .ok (a ^^^ b) ∧
    gfUnit 0b00#2 a a = .ok 0#8 ∧ gfUnit 0b00#2 a 0#8 = .ok a) ∧
  gfUnit 0b00#2 0x57#8 0x83#8 = .ok 0xd4#8 ∧
  (∀ a b : Byte, encode (.gfSub a b) = .gf (0b01#2 ++ a ++ b) ∧ gfUnit 0b01#2 a b = .ok (a ^^^ b) ∧
    gfUnit 0b01#2 a a = .ok 0#8 ∧ gfUnit 0b01#2 a b = gfUnit 0b01#2 b a) ∧
  gfUnit 0b01#2 0x57#8 0x83#8 = .ok 0xd4#8

/-- 40_field_arithmetic.md R114: bit n of the accumulator is the parity of the bits b[i] and a[n-i]; the result is
its remainder modulo 0x11B, that is, they differ by a sum of shifts of 0x11B by 0 to 6; and the rule's corner
cases. -/
def Obligations.FieldMultiplicationIsTheRemainder : Prop :=
  (∀ a b : Byte,
    encode (.gfMul a b) = .gf (0b10#2 ++ a ++ b) ∧
    (∀ n : Nat, (carrylessProduct a b).getLsbD n =
      ((List.range 8).foldl (fun p i => p ^^ (b.getLsbD i && (decide (i ≤ n) && a.getLsbD (n - i)))) false)) ∧
    (carrylessProduct a b).getLsbD 15 = false ∧
    (∃ q : BitVec 7, carrylessProduct a b ^^^ (gmul a b).setWidth 16 =
      (List.range 7).foldl (fun p j => if q.getLsbD j then p ^^^ (0x11B#16 <<< j) else p) 0#16) ∧
    (reduce (carrylessProduct a b)).extractLsb' 8 8 = 0#8 ∧
    gfUnit 0b10#2 a b = .ok (gmul a b) ∧
    gmul a 0#8 = 0#8 ∧ gmul 0#8 a = 0#8 ∧ gmul a 1#8 = a ∧ gmul 1#8 a = a) ∧
  gmul 0x80#8 0x02#8 = 0x1b#8 ∧ gmul 0xff#8 0xff#8 = 0x13#8 ∧ carrylessProduct 0xff#8 0xff#8 = 0x5555#16 ∧
  gmul 0x57#8 0x83#8 = 0xc1#8 ∧ carrylessProduct 0x57#8 0x83#8 = 0x2b79#16

/-- 40_field_arithmetic.md R115: the identities of the field operations. -/
def Obligations.FieldIdentitiesHold : Prop :=
  ∀ a b c : Byte,
    gmul a 1#8 = a ∧ gmul a 0#8 = 0#8 ∧ gadd a a = 0#8 ∧ gmul a b = gmul b a ∧
    gmul a (gadd b c) = gadd (gmul a b) (gmul a c) ∧ gsub a b = gadd a b ∧
    gmul (gmul a b) c = gmul a (gmul b c)

/-- 40_field_arithmetic.md R116: multiplication by the constants of the mixing matrices. -/
def Obligations.FieldMultiplesByTheMatrixConstants : Prop :=
  ∀ a : Byte,
    gmul a 0x02#8 = (a <<< 1) ^^^ (if a.getLsbD 7 then 0x1B#8 else 0x00#8) ∧
    gmul a 0x03#8 = gmul a 0x02#8 ^^^ a ∧
    gmul a 0x09#8 = gmul (gmul (gmul a 2#8) 2#8) 2#8 ^^^ a ∧
    gmul a 0x0B#8 = gmul (gmul (gmul a 2#8) 2#8) 2#8 ^^^ gmul a 2#8 ^^^ a ∧
    gmul a 0x0D#8 = gmul (gmul (gmul a 2#8) 2#8) 2#8 ^^^ gmul (gmul a 2#8) 2#8 ^^^ a ∧
    gmul a 0x0E#8 = gmul (gmul (gmul a 2#8) 2#8) 2#8 ^^^ gmul (gmul a 2#8) 2#8 ^^^ gmul a 2#8

/-- 40_field_arithmetic.md R111 to R114, R117: the unit's output y is in every state the function of its inputs; the
three field-unit operations complete in every state, with their word on the inputs and so their result on y, and
nothing else changes. That the levels on the inputs are the field gfIn is the model's choice (log entry 7). -/
def Obligations.FieldOperationsCompleteWithTheirResultOnY : Prop :=
  (∀ s : State,
    (s.gfIn.extractLsb' 16 2 = 0b00#2 → gfY s = .ok (s.gfIn.extractLsb' 8 8 ^^^ s.gfIn.extractLsb' 0 8)) ∧
    (s.gfIn.extractLsb' 16 2 = 0b01#2 → gfY s = .ok (s.gfIn.extractLsb' 8 8 ^^^ s.gfIn.extractLsb' 0 8)) ∧
    (s.gfIn.extractLsb' 16 2 = 0b10#2 → gfY s = .ok (gmul (s.gfIn.extractLsb' 8 8) (s.gfIn.extractLsb' 0 8))) ∧
    (s.gfIn.extractLsb' 16 2 = 0b11#2 → gfY s = .error (.reservedGfFunction 0b11#2))) ∧
  (∀ (a b : Byte) (s : State),
    (∃ t, exec (.gfAdd a b) s = .next t ∧ t = { s with gfIn := 0b00#2 ++ a ++ b } ∧ gfY t = .ok (a ^^^ b)) ∧
    (∃ t, exec (.gfSub a b) s = .next t ∧ t = { s with gfIn := 0b01#2 ++ a ++ b } ∧ gfY t = .ok (a ^^^ b)) ∧
    (∃ t, exec (.gfMul a b) s = .next t ∧ t = { s with gfIn := 0b10#2 ++ a ++ b } ∧ gfY t = .ok (gmul a b)))

/-! ### Tables -/

/-- 20_memory.md R56, R59, 41_round_transformations.md R141: SBOX is the algebraic S-box, a permutation without a
fixed point, and INV_SBOX is its inverse. -/
def Obligations.SboxIsTheAlgebraicPermutation : Prop :=
  (∀ a : Byte, ∃ y : Byte, (a = 0#8 → y = 0#8) ∧ (a ≠ 0#8 → ∀ z : Byte, gmul a z = 1#8 ↔ z = y) ∧
    sbox a = y ^^^ y.rotateLeft 1 ^^^ y.rotateLeft 2 ^^^ y.rotateLeft 3 ^^^ y.rotateLeft 4 ^^^ 0x63#8) ∧
  Function.Bijective sbox ∧ (∀ a : Byte, invSbox (sbox a) = a) ∧ (∀ a : Byte, sbox a ≠ a)

/-- 42_key_schedule.md R170: RCON[r] is x^(r-1), with the ten listed values. -/
def Obligations.RoundConstantsArePowersOfX : Prop :=
  (∀ r : Nat, ∀ h : 1 ≤ r ∧ r ≤ 10, rcon r h = (List.range (r - 1)).foldl (fun x _ => gmul x 0x02#8) 0x01#8) ∧
  rconTable = [0x01#8, 0x02#8, 0x04#8, 0x08#8, 0x10#8, 0x20#8, 0x40#8, 0x80#8, 0x1B#8, 0x36#8]

/-- 43_sequencer.md R197, R198, 95_test_vectors.md L2-ENC: the micro-programs are 51 bytes long, are the uops of the
pseudo-instructions listed, and have FIN only at index 50. -/
def Obligations.MicroProgramsAreTheListedUops : Prop :=
  encryptProgram.map encode = uprogEnc.map .uop ∧ decryptProgram.map encode = uprogDec.map .uop ∧
  uprogEnc.length = 51 ∧ uprogDec.length = 51 ∧
  (∀ n : Nat, uprogEnc[n]? = some 0x90#8 ↔ n = 50) ∧ (∀ n : Nat, uprogDec[n]? = some 0x90#8 ↔ n = 50) ∧
  (∀ r : Nat, 1 ≤ r → r ≤ 9 →
    uprogEnc[11 + 4 * (r - 1)]? = some 0x30#8 ∧ uprogEnc[12 + 4 * (r - 1)]? = some 0x50#8 ∧
    uprogEnc[13 + 4 * (r - 1)]? = some 0x70#8 ∧ uprogEnc[14 + 4 * (r - 1)]? = some (BitVec.ofNat 8 (0x20 + r)) ∧
    uprogDec[11 + 4 * (9 - r)]? = some 0x60#8 ∧ uprogDec[12 + 4 * (9 - r)]? = some 0x40#8 ∧
    uprogDec[13 + 4 * (9 - r)]? = some (BitVec.ofNat 8 (0x20 + r)) ∧ uprogDec[14 + 4 * (9 - r)]? = some 0x80#8)

/-! ### The round pipeline -/

/-- 41_round_transformations.md R141: SB completes, replaces every byte by its S-box image, and leaves all but STATE
and UPC alone; the example. -/
def Obligations.SubBytesResult : Prop :=
  encode .sb = .uop 0x30#8 ∧
  (∀ s : State, ∃ t, exec .sb s = .next t ∧ roundFrame s t ∧
    ∀ i : Fin 16, t.state[i] = sbox s.state[i]) ∧
  (∀ s : State, s.state = bytes 0x00102030405060708090a0b0c0d0e0f0 →
    ∃ t, exec .sb s = .next t ∧ t.state = bytes 0x63cab7040953d051cd60e0e7ba70e18c)

/-- 41_round_transformations.md R142: ISB completes, replaces every byte by its InvS-box image, and leaves all but
STATE and UPC alone; INV_SBOX undoes SBOX; the example. -/
def Obligations.InvSubBytesResult : Prop :=
  encode .isb = .uop 0x40#8 ∧
  (∀ s : State, ∃ t, exec .isb s = .next t ∧ roundFrame s t ∧ ∀ i : Fin 16, t.state[i] = invSbox s.state[i]) ∧
  (∀ x : Byte, invSbox (sbox x) = x) ∧
  (∀ s : State, s.state = bytes 0x7a9f102789d5f50b2beffd9f3dca4ea7 →
    ∃ t, exec .isb s = .next t ∧ t.state = bytes 0xbd6e7c3df2b5779e0b61216e8b10b689)

/-- 41_round_transformations.md R143: SR completes and rotates row r left by r; row 0 never moves; the index pattern
and the example. -/
def Obligations.ShiftRowsResult : Prop :=
  encode .sr = .uop 0x50#8 ∧
  (∀ s : State, ∃ t, exec .sr s = .next t ∧ roundFrame s t ∧
    (∀ r c : Fin 4, t.state[r.val + 4 * c.val]'(by omega) =
      s.state[r.val + 4 * ((c.val + r.val) % 4)]'(by omega)) ∧
    (∀ c : Fin 4, t.state[4 * c.val]'(by omega) = s.state[4 * c.val]'(by omega))) ∧
  shiftRows (bytes 0x000102030405060708090a0b0c0d0e0f) = bytes 0x00050a0f04090e03080d02070c01060b ∧
  shiftRows (bytes 0x63cab7040953d051cd60e0e7ba70e18c) = bytes 0x6353e08c0960e104cd70b751bacad0e7

/-- 41_round_transformations.md R144: ISR completes and rotates row r right by r; the index pattern and the
example. -/
def Obligations.InvShiftRowsResult : Prop :=
  encode .isr = .uop 0x60#8 ∧
  (∀ s : State, ∃ t, exec .isr s = .next t ∧ roundFrame s t ∧
    ∀ r c : Fin 4, t.state[r.val + 4 * c.val]'(by omega) =
      s.state[r.val + 4 * ((c.val + (4 - r.val)) % 4)]'(by omega)) ∧
  (∀ b : Block, invShiftRows (shiftRows b) = b) ∧
  invShiftRows (bytes 0x000102030405060708090a0b0c0d0e0f) = bytes 0x000d0a0704010e0b0805020f0c090603 ∧
  invShiftRows (bytes 0x7ad5fda789ef4e272bca100b3d9ff59f) = bytes 0x7a9f102789d5f50b2beffd9f3dca4ea7

/-- 41_round_transformations.md R145, R146: MC completes and multiplies each column by the forward matrix, whose first
row is 02 03 01 01 and whose rows rotate; columns of equal bytes stay; the examples. -/
def Obligations.MixColumnsResult : Prop :=
  encode .mc = .uop 0x70#8 ∧
  (∀ s : State, ∃ t, exec .mc s = .next t ∧ roundFrame s t ∧
    (∀ r c : Fin 4, t.state[r.val + 4 * c.val]'(by omega) =
      gmul (circulant #v[0x02#8, 0x03#8, 0x01#8, 0x01#8] r 0) (s.state[0 + 4 * c.val]'(by omega)) ^^^
      gmul (circulant #v[0x02#8, 0x03#8, 0x01#8, 0x01#8] r 1) (s.state[1 + 4 * c.val]'(by omega)) ^^^
      gmul (circulant #v[0x02#8, 0x03#8, 0x01#8, 0x01#8] r 2) (s.state[2 + 4 * c.val]'(by omega)) ^^^
      gmul (circulant #v[0x02#8, 0x03#8, 0x01#8, 0x01#8] r 3) (s.state[3 + 4 * c.val]'(by omega))) ∧
    (∀ (c : Fin 4) (x : Byte), column s.state c = Vector.replicate 4 x → column t.state c = Vector.replicate 4 x) ∧
    (∀ c : Fin 4, column s.state c = #v[1#8, 0#8, 0#8, 0#8] → column t.state c = #v[2#8, 1#8, 1#8, 3#8])) ∧
  mixColumns (bytes 0x6353e08c0960e104cd70b751bacad0e7) = bytes 0x5f72641557f5bc92f7be3b291db9f91a ∧
  mixColumn matrixForward #v[0xdb#8, 0x13#8, 0x53#8, 0x45#8] = #v[0x8e#8, 0x4d#8, 0xa1#8, 0xbc#8]

/-- 41_round_transformations.md R145, R147: IMC completes and multiplies each column by the inverse matrix, whose
first row is 0E 0B 0D 09 and whose rows rotate; columns of equal bytes stay; the examples. -/
def Obligations.InvMixColumnsResult : Prop :=
  encode .imc = .uop 0x80#8 ∧
  (∀ s : State, ∃ t, exec .imc s = .next t ∧ roundFrame s t ∧
    (∀ r c : Fin 4, t.state[r.val + 4 * c.val]'(by omega) =
      gmul (circulant #v[0x0E#8, 0x0B#8, 0x0D#8, 0x09#8] r 0) (s.state[0 + 4 * c.val]'(by omega)) ^^^
      gmul (circulant #v[0x0E#8, 0x0B#8, 0x0D#8, 0x09#8] r 1) (s.state[1 + 4 * c.val]'(by omega)) ^^^
      gmul (circulant #v[0x0E#8, 0x0B#8, 0x0D#8, 0x09#8] r 2) (s.state[2 + 4 * c.val]'(by omega)) ^^^
      gmul (circulant #v[0x0E#8, 0x0B#8, 0x0D#8, 0x09#8] r 3) (s.state[3 + 4 * c.val]'(by omega))) ∧
    (∀ (c : Fin 4) (x : Byte), column s.state c = Vector.replicate 4 x → column t.state c = Vector.replicate 4 x) ∧
    (∀ c : Fin 4, column s.state c = #v[1#8, 0#8, 0#8, 0#8] → column t.state c = #v[0xe#8, 0x9#8, 0xd#8, 0xb#8])) ∧
  (∀ col : Word, mixColumn matrixInverse (mixColumn matrixForward col) = col) ∧
  invMixColumns (bytes 0xe9f74eec023020f61bf2ccf2353c21c7) = bytes 0x54d990a16ba09ab596bbf40ea111702f ∧
  mixColumn matrixInverse #v[0x8e#8, 0x4d#8, 0xa1#8, 0xbc#8] = #v[0xdb#8, 0x13#8, 0x53#8, 0x45#8]

/-- 41_round_transformations.md R148: ARK k completes for k in 0..10, adds RK[k] byte by byte, so word j to column j,
and twice restores the state. -/
def Obligations.AddRoundKeyResult : Prop :=
  (∀ (k : Fin 11) (s : State), encode (.ark (BitVec.ofNat 4 k.val)) = .uop (BitVec.ofNat 8 (0x20 + k.val)) ∧
    (∃ t, exec (.ark (BitVec.ofNat 4 k.val)) s = .next t ∧ roundFrame s t ∧
      (∀ i : Fin 16, t.state[i] = s.state[i] ^^^ (s.rk[k])[i]) ∧
      (∀ j b : Fin 4, (column t.state j)[b] =
        (column s.state j)[b] ^^^ (scheduleSlice s.rk ⟨4 * k.val + j.val, by omega⟩)[b]) ∧
      (s.state = s.rk[k] → t.state = Vector.replicate 16 0#8)) ∧
    (∃ u, execAll [.ark (BitVec.ofNat 4 k.val), .ark (BitVec.ofNat 4 k.val)] s = .next u ∧ u.state = s.state)) ∧
  (∀ s : State, s.state = bytes 0x00112233445566778899aabbccddeeff →
    s.rk[0] = bytes 0x000102030405060708090a0b0c0d0e0f →
    ∃ t, exec (.ark 0#4) s = .next t ∧ t.state = bytes 0x00102030405060708090a0b0c0d0e0f0)

/-- 41_round_transformations.md R149: each round uop followed by its inverse leaves STATE unchanged. -/
def Obligations.RoundUopsUndoTheirInverses : Prop :=
  ∀ s : State,
    (∃ t, execAll [.sr, .isr] s = .next t ∧ t.state = s.state) ∧
    (∃ t, execAll [.mc, .imc] s = .next t ∧ t.state = s.state) ∧
    (∃ t, execAll [.sb, .isb] s = .next t ∧ t.state = s.state) ∧
    (∀ k : Fin 11, ∃ t, execAll [.ark (BitVec.ofNat 4 k.val), .ark (BitVec.ofNat 4 k.val)] s = .next t ∧
      t.state = s.state)

/-- 41_round_transformations.md R150: SB commutes with SR, ISB with ISR, and two ARKs with each other; MC does not
commute with SR in general, nor ARK with SB, SR, MC or their inverses. R143: four SRs give the identity. -/
def Obligations.RoundCommutations : Prop :=
  (∀ s : State, (∃ t, execAll [.sb, .sr] s = .next t ∧ execAll [.sr, .sb] s = .next t) ∧
    (∃ t, execAll [.isb, .isr] s = .next t ∧ execAll [.isr, .isb] s = .next t)) ∧
  (∀ (s : State) (j k : Fin 11), ∃ t,
    execAll [.ark (BitVec.ofNat 4 j.val), .ark (BitVec.ofNat 4 k.val)] s = .next t ∧
    execAll [.ark (BitVec.ofNat 4 k.val), .ark (BitVec.ofNat 4 j.val)] s = .next t) ∧
  (∀ s : State, ∃ t, execAll [.sr, .sr, .sr, .sr] s = .next t ∧ t.state = s.state) ∧
  (∃ b : Block, mixColumns (shiftRows b) ≠ shiftRows (mixColumns b)) ∧
  (∃ b k : Block, subBytes (addRoundKey b k) ≠ addRoundKey (subBytes b) k) ∧
  (∃ b k : Block, invSubBytes (addRoundKey b k) ≠ addRoundKey (invSubBytes b) k) ∧
  (∃ b k : Block, shiftRows (addRoundKey b k) ≠ addRoundKey (shiftRows b) k) ∧
  (∃ b k : Block, invShiftRows (addRoundKey b k) ≠ addRoundKey (invShiftRows b) k) ∧
  (∃ b k : Block, mixColumns (addRoundKey b k) ≠ addRoundKey (mixColumns b) k) ∧
  (∃ b k : Block, invMixColumns (addRoundKey b k) ≠ addRoundKey (invMixColumns b) k)

/-! ### The key schedule -/

/-- 42_key_schedule.md R171, R172, R173: the g-function rotates left by one byte, substitutes each byte, and adds the
round constant to the first byte only. -/
def Obligations.GFunctionResult : Prop :=
  ∀ (w : Word) (r : Nat) (h : 1 ≤ r ∧ r ≤ 10),
    rotWord w = #v[w[1], w[2], w[3], w[0]] ∧ (∀ i : Fin 4, (subWord w)[i] = sbox w[i]) ∧
    gFunction w r h = #v[sbox w[1] ^^^ rcon r h, sbox w[2], sbox w[3], sbox w[0]]

/-- 42_key_schedule.md R174: KEXP k completes for k in 1..10; word 0 of RK[k] is word 0 of RK[k-1] plus the
g-function of its word 3, and each later word is the old word plus the new word before it; RK[k] and UPC are all that
changes. -/
def Obligations.KeyExpansionStepResult : Prop :=
  (∀ (k : Nat) (h : 1 ≤ k ∧ k ≤ 10) (s : State),
    encode (.kexp (BitVec.ofNat 4 k)) = .uop (BitVec.ofNat 8 (0x10 + k)) ∧
    ∃ t, exec (.kexp (BitVec.ofNat 4 k)) s = .next t ∧
      t = { s with rk := s.rk.set k (t.rk[k]'(by omega)) (by omega), upc := s.upc + 1#6 } ∧
      (∀ b : Fin 4, (column (t.rk[k]'(by omega)) 0)[b] = (column (s.rk[k - 1]'(by omega)) 0)[b] ^^^
        (gFunction (column (s.rk[k - 1]'(by omega)) 3) k h)[b]) ∧
      (∀ (j : Fin 3) (b : Fin 4), (column (t.rk[k]'(by omega)) j.succ)[b] =
        (column (s.rk[k - 1]'(by omega)) j.succ)[b] ^^^ (column (t.rk[k]'(by omega)) j.castSucc)[b])) ∧
  nextRoundKey (bytes 0) 1 (by decide) = bytes 0x62636363626363636263636362636363 ∧
  nextRoundKey (bytes 0x000102030405060708090a0b0c0d0e0f) 1 (by decide) = bytes 0xd6aa74fdd2af72fadaa678f1d6ab76fe

/-- 42_key_schedule.md R175: accept and KEXP 1 to KEXP 10 leave generateSubkeys(key) in RK[0..10], in either
direction, whatever RK held before. -/
def Obligations.ScheduleAfterKeyExpansion : Prop :=
  ∀ (s : State) (key data : Block), s.busy = 0#1 → s.rst = 0#1 →
    (∃ t, execAll (.encrypt key data :: expand .kexpand) s = .next t ∧ t.rk = generateSubkeys key) ∧
    (∃ t, execAll (.decrypt key data :: expand .kexpand) s = .next t ∧ t.rk = generateSubkeys key)

/-- 42_key_schedule.md R174, R175: the words of generateSubkeys(key) are those of the source's recurrence for
i = 4..43. -/
def Obligations.ScheduleFollowsTheWordRecurrence : Prop :=
  ∀ (key : Block) (i : Fin 44), scheduleSlice (generateSubkeys key) i = scheduleWord key i

/-- 42_key_schedule.md R176: round key 0 is the key, and no later step of a command writes RK[0]. The second clause
says more than R176: it speaks of every step that is no accept, a reset event among them, and that a reset keeps RK[0]
is the model's reading (log entry 2), since 10_state.md R39 leaves it unspecified. -/
def Obligations.RoundKeyZeroIsTheKey : Prop :=
  (∀ key : Block, (generateSubkeys key)[0] = key) ∧
  (∀ s t : State, step s = .next t → ¬ isAccept (nextEvent s) → t.rk[0] = s.rk[0])

/-! ### Accept, step and FIN -/

/-- 43_sequencer.md R192, R193, R194: ENCRYPT and DECRYPT complete on an idle core out of reset, writing exactly the
registers accept writes. -/
def Obligations.CommandsAreAcceptedWhenReady : Prop :=
  ∀ (s : State) (K D : Block), s.busy = 0#1 → s.rst = 0#1 →
    exec (.encrypt K D) s = .next { s with
      op := 0#1, rk := s.rk.set 0 K, state := D, upc := 0#6, busy := 1#1, rspv := 0#1 } ∧
    exec (.decrypt K D) s = .next { s with
      op := 1#1, rk := s.rk.set 0 K, state := D, upc := 0#6, busy := 1#1, rspv := 0#1 }

/-- 43_sequencer.md R192: the accept event, from the ports. Enabled when BUSY = 0, rst = 0 and cmd_valid = 1, which is
cmd_valid = 1 and cmd_ready = 1; and while the core runs, what the ports carry does not matter. -/
def Obligations.AcceptTakesTheCommandFromThePorts : Prop :=
  (∀ s : State, (s.busy = 0#1 ∧ s.rst = 0#1 ∧ cmdValid s = 1#1) ↔ (cmdValid s = 1#1 ∧ cmdReady s = 1#1)) ∧
  (∀ (s : State) (c : Command), ready s → s.busy = 0#1 → s.rst = 0#1 → s.cmd = some c →
    ∃ t, step s = .next t ∧ t.op = c.op ∧ t.rk = s.rk.set 0 (bytes c.key) ∧ t.state = bytes c.data ∧ t.upc = 0#6 ∧
      t.busy = 1#1 ∧ t.rspv = 0#1 ∧ t.dout = s.dout) ∧
  (∀ (s t : State) (p : Option Command), ready s → s.busy = 1#1 → s.rst = 0#1 → step s = .next t →
    ∃ u, step { s with cmd := p } = .next u ∧ sameRegisters t u)

/-- 43_sequencer.md R191: a command presented while the core is Running is not accepted, changes nothing, and stays
on the ports (unless the host withdraws it); the first event after FIN accepts it. -/
def Obligations.CommandsWaitWhileRunning : Prop :=
  (∀ (s : State) (K D : Block), s.busy = 1#1 →
    cmdReady s = 0#1 ∧ exec (.encrypt K D) s = .next s ∧ exec (.decrypt K D) s = .next s) ∧
  (∀ (s t : State) (c : Command), s.busy = 1#1 → s.cmd = some c → s.script.head? ≠ some .withdraw →
    step s = .next t → ¬ isAccept (nextEvent s) ∧ t.cmd = some c) ∧
  (∀ (s : State) (c : Command), ready s → s.rst = 0#1 → s.busy = 1#1 → s.upc = 50#6 → s.cmd = some c →
    s.script.head? ≠ some .withdraw → s.script.head? ≠ some .assertReset →
    ∃ t u, step s = .next t ∧ step t = .next u ∧ isAccept (nextEvent t) ∧ u.op = c.op ∧ u.rk[0] = bytes c.key ∧
      u.state = bytes c.data ∧ u.busy = 1#1 ∧ u.upc = 0#6)

/-- 43_sequencer.md R196: FIN copies STATE to DOUT, sets RSPV, clears BUSY and UPC, and leaves all else alone. It
stands only at index 50 of each micro-program; the result stays on DOUT and on rsp_data until the next accept or
reset. -/
def Obligations.FinishPresentsTheResult : Prop :=
  encode .fin = .uop 0x90#8 ∧
  (∀ s : State, exec .fin s = .next { s with dout := s.state, rspv := 1#1, busy := 0#1, upc := 0#6 }) ∧
  (∀ s : State, nextEvent s = .run .microProgram .fin → s.upc = 50#6) ∧
  (∀ s t : State, ControlInvariant s → s.rspv = 1#1 → step s = .next t → nextEvent s ≠ .reset →
    ¬ isAccept (nextEvent s) → t.rspv = 1#1 ∧ t.dout = s.dout ∧ rspData t = rspData s)

/-- 43_sequencer.md R195, R192, 40_field_arithmetic.md R111: a step runs exec of the instruction it decodes, then
takes an accepted command off the ports, or marks the field unit's word as run, and lets the host move. That order, and the host's move, are the model's (log
entries 4 and 7). -/
def Obligations.StepRunsTheDecodedInstruction : Prop :=
  (∀ (s : State) (u : BitVec 8) (i : Instr), ready s → s.rst = 0#1 → s.busy = 1#1 →
    memRead (programOf s.op) s.upc.toNat = some u → decode (.uop u) = .ok i →
    step s = mapNext endEvent (exec i s)) ∧
  (∀ (s : State) (c : Command) (i : Instr), ready s → s.rst = 0#1 → s.busy = 0#1 → s.cmd = some c →
    decode (.cmd (c.op ++ c.key ++ c.data)) = .ok i →
    step s = mapNext (fun t => endEvent { t with cmd := none }) (exec i s)) ∧
  (∀ (s : State) (i : Instr), s.wasReset = true → s.rst = 0#1 → s.gfRun = true → decode (.gf s.gfIn) = .ok i →
    step s = mapNext (fun t => endEvent { t with gfRun := false }) (exec i s))

/-- 10_state.md R31: while BUSY = 1, UPC is the index of the next uop in the micro-program OP selects; a step at an
index below 50 adds exactly 1, without a wrap, and FIN at 50 sets it to 0; accept and reset set it to 0; above 50 the
step raises UpcOutOfRange; and no run from reset takes it there. -/
def Obligations.MicroProgramCounterFollowsItsRule : Prop :=
  (∀ s : State, ready s → s.rst = 0#1 → s.busy = 1#1 →
    (∀ u : BitVec 8, (if s.op = 0#1 then uprogEnc else uprogDec)[s.upc.toNat]? = some u →
      nextEvent s = uopEvent s.upc u) ∧
    (s.upc.toNat < 50 → ∃ t, step s = .next t ∧ t.upc.toNat = s.upc.toNat + 1 ∧ t.busy = 1#1) ∧
    (s.upc.toNat = 50 → nextEvent s = .run .microProgram .fin ∧
      ∃ t, step s = .next t ∧ t.upc = 0#6 ∧ t.busy = 0#1) ∧
    (50 < s.upc.toNat → step s = .fault (.upcOutOfRange s.upc))) ∧
  (∀ s t : State, step s = .next t → isAccept (nextEvent s) ∨ nextEvent s = .reset → t.upc = 0#6) ∧
  (∀ (moves : List HostMove) (n : Nat) (t : State),
    core.run n { State.reset with script := moves } = .next t → t.upc.toNat ≤ 50)

/-- 43_sequencer.md R190: an idle core out of reset to which no command is presented changes no register. That this is
a step of its own is the model's (log entry 4). -/
def Obligations.IdleCoreWaits : Prop :=
  ∀ s : State, ready s → s.rst = 0#1 → s.busy = 0#1 → s.cmd = none →
    ∃ t, step s = .next t ∧ sameRegisters s t

/-! ### The result of a command -/

/-- 43_sequencer.md R193, R194, R200, R201, R203, R204: from the event that accepts a command, with no reset on the
way, the core is busy and presents nothing for 51 steps, and after the 51st, FIN, DOUT is encryptBlock or decryptBlock
of the command's data and key. -/
def Obligations.CommandsComputeTheCipherInFiftyOneSteps : Prop :=
  ∀ (s : State) (c : Command), ready s → noResetAhead s → s.busy = 0#1 → s.cmd = some c →
    (∀ n : Nat, n ≤ 50 → ∃ u, core.run (n + 1) s = .next u ∧ u.busy = 1#1 ∧ u.rspv = 0#1 ∧ u.upc.toNat = n) ∧
    (∃ t, core.run 52 s = .next t ∧ t.busy = 0#1 ∧ t.upc = 0#6 ∧ t.rspv = 1#1 ∧ t.op = c.op ∧
      (c.op = 0#1 → t.dout = encryptBlock (bytes c.data) (bytes c.key)) ∧
      (c.op = 1#1 → t.dout = decryptBlock (bytes c.data) (bytes c.key)))

/-- 00_scope.md R19, 20_memory.md R64, 43_sequencer.md R191: commands presented one behind the other, each waiting
for the one before, are accepted in order, and the n-th response is the cipher of the n-th command. The count of
1 + 52 n events is the model's (log entry 4): the host's moves stand in a script, the idle event before the first
command is a step, and a present waits while a command is pending. -/
def Obligations.ResponsesComeInAcceptOrder : Prop :=
  ∀ (s : State) (cs : List Command), ready s → s.rst = 0#1 → s.busy = 0#1 → s.cmd = none →
    s.script = cs.map HostMove.present →
    observations (1 + 52 * cs.length) s =
      cs.flatMap fun c => [.accepted c, .response (cipher c.op (bytes c.key) (bytes c.data))]

/-- 20_memory.md R65, 10_state.md R37: a command's response depends only on its own op, key and data: two idle cores
that differ in every register give the same observation. -/
def Obligations.ResponseDependsOnlyOnTheCommand : Prop :=
  ∀ (s t : State) (c : Command), ready s → ready t → noResetAhead s → noResetAhead t → s.busy = 0#1 → t.busy = 0#1 →
    s.cmd = some c → t.cmd = some c → observations 52 s = observations 52 t

/-- 43_sequencer.md R202: decryptBlock undoes encryptBlock, on one block and block by block on a text of several. -/
def Obligations.DecryptUndoesEncrypt : Prop :=
  (∀ b k : Block, decryptBlock (encryptBlock b k) k = b) ∧
  (∀ (text : List Block) (k : Block),
    (text.map fun b => encryptBlock b k).map (fun b => decryptBlock b k) = text)

/-- 95_test_vectors.md P5, 90_conflicts.md C5: encryptBlock undoes decryptBlock, which the source does not state. -/
def Obligations.EncryptUndoesDecrypt : Prop :=
  ∀ b k : Block, encryptBlock (decryptBlock b k) k = b

/-! ### Reset and faults -/

/-- 10_state.md R39: what reset leaves in the registers whose values the spec gives, the outputs, and that the state
is ready to accept. -/
def Obligations.ResetStateIsIdle : Prop :=
  State.reset.op = 0#1 ∧ State.reset.busy = 0#1 ∧ State.reset.rspv = 0#1 ∧ State.reset.upc = 0#6 ∧
  busyOut State.reset = 0#1 ∧ rspValid State.reset = 0#1 ∧ cmdReady State.reset = 1#1

/-- 70_reset_and_hazards.md R260, R261, 60_exceptions.md R235: while rst = 1 the event is a reset, whatever the core
does and whatever is presented: OP, BUSY, RSPV and UPC become 0, and cmd_ready is 0. When rst is released the core is
Idle with rsp_valid = 0 and cmd_ready = 1. -/
def Obligations.ResetWinsAndClearsTheControlRegisters : Prop :=
  ∀ s : State, s.rst = 1#1 → cmdReady s = 0#1 ∧
    ∃ t, step s = .next t ∧ t.op = 0#1 ∧ t.busy = 0#1 ∧ t.rspv = 0#1 ∧ t.upc = 0#6 ∧ t.wasReset = true ∧
      (t.rst = 0#1 → isIdle t ∧ rspValid t = 0#1 ∧ cmdReady t = 1#1)

/-- 70_reset_and_hazards.md R260, 10_state.md R38: the reset event leaves STATE, RK and DOUT as they were. R39 leaves
their values unspecified; that they are kept is the model's reading (log entry 2). -/
def Obligations.ResetKeepsTheDatapath : Prop :=
  ∀ s t : State, s.rst = 1#1 → step s = .next t → t.state = s.state ∧ t.rk = s.rk ∧ t.dout = s.dout

/-- 70_reset_and_hazards.md R261, 95_test_vectors.md P4: a command abandoned by a reset never gets a response,
whatever is pending at the reset and whatever the host does afterwards: the first thing observed from the reset on, if
anything is, is an accept; and for as long as no command is accepted, RSPV and BUSY stay 0. The host's moves are the
model's script (log entry 4). -/
def Obligations.AbandonedCommandHasNoResponse : Prop :=
  ∀ s : State, s.rst = 1#1 → s.busy = 1#1 →
    (∀ (n : Nat) (b : Block), (observations n s).head? ≠ some (.response b)) ∧
    (∀ (n : Nat) (u : State), core.run (n + 1) s = .next u → (∀ c, .accepted c ∉ observations (n + 1) s) →
      u.rspv = 0#1 ∧ u.busy = 0#1)

/-- 60_exceptions.md R233, 70_reset_and_hazards.md R262: any event before the first reset but the reset itself raises
NotReset, whatever the registers hold at power-on. That a step which only waits is such an event is the model's choice
(log entry 6): R262 does not say so. -/
def Obligations.EventsBeforeTheFirstResetFault : Prop :=
  (∀ s : State, s.wasReset = false → s.rst = 0#1 → step s = .fault .notReset) ∧
  step (State.powerOn 0#1) = .fault .notReset ∧
  (∃ t, step (State.powerOn 1#1) = .next t ∧ isIdle t ∧ t.rspv = 0#1 ∧ t.wasReset = true)

/-- 60_exceptions.md R233: a step faults exactly in these cases, and ReservedUop is not among them, because the
micro-programs hold no reserved uop. Two parts of the list are the model's: the flag wasReset that NotReset is raised
on, by a step that only waits too (log entry 6), and the levels in gfIn, which the step looks at before the core's own
event, so that their fault hides an UpcOutOfRange (log entry 7). -/
def Obligations.StepFaultsOnlyAsListed : Prop :=
  ∀ (s : State) (f : Fault), step s = .fault f ↔
    (s.rst = 0#1 ∧ s.wasReset = false ∧ f = .notReset) ∨
    (s.rst = 0#1 ∧ s.wasReset = true ∧ s.gfIn.extractLsb' 16 2 = 0b11#2 ∧ f = .reservedGfFunction 0b11#2) ∨
    (s.rst = 0#1 ∧ s.wasReset = true ∧ s.gfRun = false ∧ s.gfIn.extractLsb' 16 2 ≠ 0b11#2 ∧ s.busy = 1#1 ∧
      50 < s.upc.toNat ∧ f = .upcOutOfRange s.upc)

/-- 60_exceptions.md R230: every step from a good state goes on, to a good state, and a run from reset never faults,
whatever the host does. A good state meets the control invariant, was reset, and has on the field unit's
inputs no word to be run and no reserved fsel; the last two speak of the model's own fields wasReset, gfIn and gfRun
(log entries 6 and 7). -/
def Obligations.TheCoreNeverFaults : Prop :=
  (∀ s : State, ready s → ControlInvariant s → ∃ t, step s = .next t ∧ ready t ∧ ControlInvariant t) ∧
  (∀ (moves : List HostMove) (n : Nat), ∃ t, core.run n { State.reset with script := moves } = .next t)

/-! ### Invariants and the frame of a step -/

/-- 10_state.md R40 (a), (b), (c): every step keeps them. -/
def Obligations.EveryStepKeepsTheControlInvariant : Prop :=
  ∀ s t : State, ControlInvariant s → step s = .next t → ControlInvariant t

/-- 10_state.md R40 (d): every step keeps it. -/
def Obligations.EveryStepKeepsTheScheduleInvariant : Prop :=
  ∀ s t : State, ScheduleInvariant s → step s = .next t → ScheduleInvariant t

/-- 10_state.md R39, R40: the state after reset meets both invariants. -/
def Obligations.ResetMeetsTheInvariants : Prop :=
  ControlInvariant State.reset ∧ ScheduleInvariant State.reset

/-- 10_state.md R38: the complete list of writers: a register changes in a step only by the events the table
names. That STATE, RK and DOUT do not change at a reset event is the model's reading (log entry 2): the table's reset
column calls them unspecified. -/
def Obligations.OnlyTheListedWritersWrite : Prop :=
  ∀ s t : State, step s = .next t →
    (t.op ≠ s.op → isAccept (nextEvent s) ∨ nextEvent s = .reset) ∧
    (t.busy ≠ s.busy → isAccept (nextEvent s) ∨ nextEvent s = .run .microProgram .fin ∨ nextEvent s = .reset) ∧
    (t.rspv ≠ s.rspv → isAccept (nextEvent s) ∨ nextEvent s = .run .microProgram .fin ∨ nextEvent s = .reset) ∧
    (t.upc ≠ s.upc → isAccept (nextEvent s) ∨ (∃ i, nextEvent s = .run .microProgram i) ∨ nextEvent s = .reset) ∧
    (t.state ≠ s.state → isAccept (nextEvent s) ∨ ∃ i, writesState i ∧ nextEvent s = .run .microProgram i) ∧
    (t.rk[0] ≠ s.rk[0] → isAccept (nextEvent s)) ∧
    (∀ k : Fin 11, 0 < k.val → t.rk[k] ≠ s.rk[k] →
      nextEvent s = .run .microProgram (.kexp (BitVec.ofNat 4 k.val))) ∧
    (t.dout ≠ s.dout → nextEvent s = .run .microProgram .fin)

/-- 70_reset_and_hazards.md R267, R266: a presented command is never changed while it waits: after a step it is still
there, or it was accepted, or the host withdrew it. That a further present waits its turn is the model's (log entry
4). -/
def Obligations.PendingPayloadIsStable : Prop :=
  ∀ (s t : State) (c : Command), s.cmd = some c → step s = .next t →
    t.cmd = some c ∨ isAccept (nextEvent s) ∨ s.script.head? = some .withdraw

/-! ### Several cores -/

/-- 60_exceptions.md R240: the cores of a system share no mutable state: an event of one leaves every other as it
was, and events of two cores may be taken in either order. That events are taken one core at a time is the model's
(log entry 12). -/
def Obligations.CoresAreIndependent : Prop :=
  (∀ (n m : Nat) (sys sys' : System), systemStep n sys = .next sys' → m ≠ n → sys'.cores[m]? = sys.cores[m]?) ∧
  (∀ (n m : Nat) (a b c : System), n ≠ m → systemStep n a = .next b → systemStep m b = .next c →
    ∃ d, systemStep m a = .next d ∧ systemStep n d = .next c)
end

