-- ==== Sys2Proof/Laws/Assembly.lean ====
section
/-! SUPPORT. What a pseudo-instruction expands to, once (30_encoding.md R94). -/

namespace Sys2Proof.Machine

/-- The rounds of R94 are exactly the listed ones. -/
theorem mem_pseudoRounds (r : PseudoRound) : r ∈ pseudoRounds := by
  obtain ⟨k, hk⟩ := r
  revert k
  decide

/-- A pseudo-instruction stands for legal uops only: no expansion holds a reserved encoding (R87). -/
theorem expand_legalUops (p : Pseudo) : ∀ i ∈ expand p, wellFormed i = true ∧ instrFormat i = .uop := by
  cases p with
  | kexpand => decide
  | encRound r =>
    obtain ⟨k, hk⟩ := r
    revert k
    decide
  | encFinal => decide
  | decRound r =>
    obtain ⟨k, hk⟩ := r
    revert k
    decide
  | decFinal => decide

end Sys2Proof.Machine
end

