-- ==== Sys2Proof/Laws/Blocks.lean ====
section
/-! SUPPORT. The bytes of every block-valued definition, so that no later proof unfolds one. -/

namespace Sys2Proof.Machine

@[simp] theorem bytes_getElem (v : BitVec 128) (i : Nat) (h : i < 16) :
    (bytes v)[i] = v.extractLsb' (120 - 8 * i) 8 := by simp [bytes]

@[simp] theorem column_getElem (b : Block) (c : Fin 4) (r : Nat) (h : r < 4) :
    (column b c)[r] = b[4 * c.val + r]'(by omega) := by simp [column]

@[simp] theorem row_getElem (b : Block) (r : Fin 4) (c : Nat) (h : c < 4) :
    (row b r)[c] = b[r.val + 4 * c]'(by omega) := by simp [row]

@[simp] theorem ofColumns_getElem (w : Vector Word 4) (i : Nat) (h : i < 16) :
    (ofColumns w)[i] = (w[i / 4]'(by omega))[i % 4]'(by omega) := by simp [ofColumns]

@[simp] theorem blockToState_getElem (b : Block) (r c : Nat) (hr : r < 4) (hc : c < 4) :
    ((blockToState b)[r])[c] = b[r + 4 * c]'(by omega) := by simp [blockToState]

@[simp] theorem stateToBlock_getElem (m : Matrix4) (i : Nat) (h : i < 16) :
    (stateToBlock m)[i] = (m[i % 4]'(by omega))[i / 4]'(by omega) := by simp [stateToBlock]

@[simp] theorem xorBytes_getElem {n : Nat} (a b : Vector Byte n) (i : Nat) (h : i < n) :
    (xorBytes a b)[i] = a[i] ^^^ b[i] := by simp [xorBytes, gadd]

@[simp] theorem addRoundKey_getElem (a b : Block) (i : Nat) (h : i < 16) :
    (addRoundKey a b)[i] = a[i] ^^^ b[i] := by simp [addRoundKey]

@[simp] theorem subBytes_getElem (b : Block) (i : Nat) (h : i < 16) :
    (subBytes b)[i] = sbox b[i] := by simp [subBytes]

@[simp] theorem invSubBytes_getElem (b : Block) (i : Nat) (h : i < 16) :
    (invSubBytes b)[i] = invSbox b[i] := by simp [invSubBytes]

@[simp] theorem shiftRows_getElem (b : Block) (i : Nat) (h : i < 16) :
    (shiftRows b)[i] = b[i % 4 + 4 * ((i / 4 + i % 4) % 4)]'(by omega) := by simp [shiftRows]

@[simp] theorem invShiftRows_getElem (b : Block) (i : Nat) (h : i < 16) :
    (invShiftRows b)[i] = b[i % 4 + 4 * ((i / 4 + 4 - i % 4) % 4)]'(by omega) := by simp [invShiftRows]

@[simp] theorem mixColumn_getElem (m : Matrix4) (col : Word) (r : Nat) (h : r < 4) :
    (mixColumn m col)[r] =
      gmul (m[r])[0] col[0] ^^^ gmul (m[r])[1] col[1] ^^^ gmul (m[r])[2] col[2] ^^^ gmul (m[r])[3] col[3] := by
  simp [mixColumn]

/-- Byte i of a mixed block, from column i div 4. -/
theorem mixBlock_getElem (m : Matrix4) (b : Block) (i : Nat) (h : i < 16) :
    (mixBlock m b)[i] = (mixColumn m (column b ⟨i / 4, by omega⟩))[i % 4]'(by omega) := by
  simp [mixBlock]

@[simp] theorem generateSubkeys_getElem (key : Block) (k : Nat) (h : k < 11) :
    (generateSubkeys key)[k] = roundKey key k (by omega) := by simp [generateSubkeys]

@[simp] theorem roundKey_zero (key : Block) (h : 0 ≤ 10) : roundKey key 0 h = key := rfl

theorem roundKey_succ (key : Block) (k : Nat) (h : k + 1 ≤ 10) :
    roundKey key (k + 1) h = nextRoundKey (roundKey key k (by omega)) (k + 1) ⟨by omega, h⟩ := rfl

end Sys2Proof.Machine
end

