-- ==== Sys2Proof/Laws/State.lean ====
section
/-! SUPPORT. One lemma per field of State for each named update: what the update writes, and that it leaves every
other field alone. -/

namespace Sys2Proof.Machine

@[simp] theorem advance_op (s : State) : (advance s).op = s.op := rfl
@[simp] theorem advance_busy (s : State) : (advance s).busy = s.busy := rfl
@[simp] theorem advance_rspv (s : State) : (advance s).rspv = s.rspv := rfl
@[simp] theorem advance_upc (s : State) : (advance s).upc = s.upc + 1#6 := rfl
@[simp] theorem advance_state (s : State) : (advance s).state = s.state := rfl
@[simp] theorem advance_rk (s : State) : (advance s).rk = s.rk := rfl
@[simp] theorem advance_dout (s : State) : (advance s).dout = s.dout := rfl
@[simp] theorem advance_wasReset (s : State) : (advance s).wasReset = s.wasReset := rfl
@[simp] theorem advance_rst (s : State) : (advance s).rst = s.rst := rfl
@[simp] theorem advance_cmd (s : State) : (advance s).cmd = s.cmd := rfl
@[simp] theorem advance_script (s : State) : (advance s).script = s.script := rfl
@[simp] theorem advance_gfIn (s : State) : (advance s).gfIn = s.gfIn := rfl
@[simp] theorem advance_gfRun (s : State) : (advance s).gfRun = s.gfRun := rfl
@[simp] theorem advance_draws (s : State) : (advance s).draws = s.draws := rfl

@[simp] theorem writeState_op (b : Block) (s : State) : (writeState b s).op = s.op := rfl
@[simp] theorem writeState_busy (b : Block) (s : State) : (writeState b s).busy = s.busy := rfl
@[simp] theorem writeState_rspv (b : Block) (s : State) : (writeState b s).rspv = s.rspv := rfl
@[simp] theorem writeState_upc (b : Block) (s : State) : (writeState b s).upc = s.upc := rfl
@[simp] theorem writeState_state (b : Block) (s : State) : (writeState b s).state = b := rfl
@[simp] theorem writeState_rk (b : Block) (s : State) : (writeState b s).rk = s.rk := rfl
@[simp] theorem writeState_dout (b : Block) (s : State) : (writeState b s).dout = s.dout := rfl
@[simp] theorem writeState_wasReset (b : Block) (s : State) : (writeState b s).wasReset = s.wasReset := rfl
@[simp] theorem writeState_rst (b : Block) (s : State) : (writeState b s).rst = s.rst := rfl
@[simp] theorem writeState_cmd (b : Block) (s : State) : (writeState b s).cmd = s.cmd := rfl
@[simp] theorem writeState_script (b : Block) (s : State) : (writeState b s).script = s.script := rfl
@[simp] theorem writeState_gfIn (b : Block) (s : State) : (writeState b s).gfIn = s.gfIn := rfl
@[simp] theorem writeState_gfRun (b : Block) (s : State) : (writeState b s).gfRun = s.gfRun := rfl
@[simp] theorem writeState_draws (b : Block) (s : State) : (writeState b s).draws = s.draws := rfl

@[simp] theorem writeRoundKey_op (k : Nat) (h : k < 11) (b : Block) (s : State) : (writeRoundKey k h b s).op = s.op := rfl
@[simp] theorem writeRoundKey_busy (k : Nat) (h : k < 11) (b : Block) (s : State) : (writeRoundKey k h b s).busy = s.busy := rfl
@[simp] theorem writeRoundKey_rspv (k : Nat) (h : k < 11) (b : Block) (s : State) : (writeRoundKey k h b s).rspv = s.rspv := rfl
@[simp] theorem writeRoundKey_upc (k : Nat) (h : k < 11) (b : Block) (s : State) : (writeRoundKey k h b s).upc = s.upc := rfl
@[simp] theorem writeRoundKey_state (k : Nat) (h : k < 11) (b : Block) (s : State) : (writeRoundKey k h b s).state = s.state := rfl
@[simp] theorem writeRoundKey_rk (k : Nat) (h : k < 11) (b : Block) (s : State) : (writeRoundKey k h b s).rk = s.rk.set k b := rfl
@[simp] theorem writeRoundKey_dout (k : Nat) (h : k < 11) (b : Block) (s : State) : (writeRoundKey k h b s).dout = s.dout := rfl
@[simp] theorem writeRoundKey_wasReset (k : Nat) (h : k < 11) (b : Block) (s : State) : (writeRoundKey k h b s).wasReset = s.wasReset := rfl
@[simp] theorem writeRoundKey_rst (k : Nat) (h : k < 11) (b : Block) (s : State) : (writeRoundKey k h b s).rst = s.rst := rfl
@[simp] theorem writeRoundKey_cmd (k : Nat) (h : k < 11) (b : Block) (s : State) : (writeRoundKey k h b s).cmd = s.cmd := rfl
@[simp] theorem writeRoundKey_script (k : Nat) (h : k < 11) (b : Block) (s : State) : (writeRoundKey k h b s).script = s.script := rfl
@[simp] theorem writeRoundKey_gfIn (k : Nat) (h : k < 11) (b : Block) (s : State) : (writeRoundKey k h b s).gfIn = s.gfIn := rfl
@[simp] theorem writeRoundKey_gfRun (k : Nat) (h : k < 11) (b : Block) (s : State) : (writeRoundKey k h b s).gfRun = s.gfRun := rfl
@[simp] theorem writeRoundKey_draws (k : Nat) (h : k < 11) (b : Block) (s : State) : (writeRoundKey k h b s).draws = s.draws := rfl

@[simp] theorem driveGf_op (fsel : BitVec 2) (a b : Byte) (s : State) : (driveGf fsel a b s).op = s.op := rfl
@[simp] theorem driveGf_busy (fsel : BitVec 2) (a b : Byte) (s : State) : (driveGf fsel a b s).busy = s.busy := rfl
@[simp] theorem driveGf_rspv (fsel : BitVec 2) (a b : Byte) (s : State) : (driveGf fsel a b s).rspv = s.rspv := rfl
@[simp] theorem driveGf_upc (fsel : BitVec 2) (a b : Byte) (s : State) : (driveGf fsel a b s).upc = s.upc := rfl
@[simp] theorem driveGf_state (fsel : BitVec 2) (a b : Byte) (s : State) : (driveGf fsel a b s).state = s.state := rfl
@[simp] theorem driveGf_rk (fsel : BitVec 2) (a b : Byte) (s : State) : (driveGf fsel a b s).rk = s.rk := rfl
@[simp] theorem driveGf_dout (fsel : BitVec 2) (a b : Byte) (s : State) : (driveGf fsel a b s).dout = s.dout := rfl
@[simp] theorem driveGf_wasReset (fsel : BitVec 2) (a b : Byte) (s : State) : (driveGf fsel a b s).wasReset = s.wasReset := rfl
@[simp] theorem driveGf_rst (fsel : BitVec 2) (a b : Byte) (s : State) : (driveGf fsel a b s).rst = s.rst := rfl
@[simp] theorem driveGf_cmd (fsel : BitVec 2) (a b : Byte) (s : State) : (driveGf fsel a b s).cmd = s.cmd := rfl
@[simp] theorem driveGf_script (fsel : BitVec 2) (a b : Byte) (s : State) : (driveGf fsel a b s).script = s.script := rfl
@[simp] theorem driveGf_gfIn (fsel : BitVec 2) (a b : Byte) (s : State) : (driveGf fsel a b s).gfIn = gfWord fsel a b := rfl
@[simp] theorem driveGf_gfRun (fsel : BitVec 2) (a b : Byte) (s : State) : (driveGf fsel a b s).gfRun = s.gfRun := rfl
@[simp] theorem driveGf_draws (fsel : BitVec 2) (a b : Byte) (s : State) : (driveGf fsel a b s).draws = s.draws := rfl

@[simp] theorem accept_op (op : BitVec 1) (key data : Block) (s : State) : (accept op key data s).op = op := rfl
@[simp] theorem accept_busy (op : BitVec 1) (key data : Block) (s : State) : (accept op key data s).busy = 1#1 := rfl
@[simp] theorem accept_rspv (op : BitVec 1) (key data : Block) (s : State) : (accept op key data s).rspv = 0#1 := rfl
@[simp] theorem accept_upc (op : BitVec 1) (key data : Block) (s : State) : (accept op key data s).upc = 0#6 := rfl
@[simp] theorem accept_state (op : BitVec 1) (key data : Block) (s : State) : (accept op key data s).state = data := rfl
@[simp] theorem accept_rk (op : BitVec 1) (key data : Block) (s : State) : (accept op key data s).rk = s.rk.set 0 key := rfl
@[simp] theorem accept_dout (op : BitVec 1) (key data : Block) (s : State) : (accept op key data s).dout = s.dout := rfl
@[simp] theorem accept_wasReset (op : BitVec 1) (key data : Block) (s : State) : (accept op key data s).wasReset = s.wasReset := rfl
@[simp] theorem accept_rst (op : BitVec 1) (key data : Block) (s : State) : (accept op key data s).rst = s.rst := rfl
@[simp] theorem accept_cmd (op : BitVec 1) (key data : Block) (s : State) : (accept op key data s).cmd = s.cmd := rfl
@[simp] theorem accept_script (op : BitVec 1) (key data : Block) (s : State) : (accept op key data s).script = s.script := rfl
@[simp] theorem accept_gfIn (op : BitVec 1) (key data : Block) (s : State) : (accept op key data s).gfIn = s.gfIn := rfl
@[simp] theorem accept_gfRun (op : BitVec 1) (key data : Block) (s : State) : (accept op key data s).gfRun = s.gfRun := rfl
@[simp] theorem accept_draws (op : BitVec 1) (key data : Block) (s : State) : (accept op key data s).draws = s.draws := rfl

@[simp] theorem finish_op (s : State) : (finish s).op = s.op := rfl
@[simp] theorem finish_busy (s : State) : (finish s).busy = 0#1 := rfl
@[simp] theorem finish_rspv (s : State) : (finish s).rspv = 1#1 := rfl
@[simp] theorem finish_upc (s : State) : (finish s).upc = 0#6 := rfl
@[simp] theorem finish_state (s : State) : (finish s).state = s.state := rfl
@[simp] theorem finish_rk (s : State) : (finish s).rk = s.rk := rfl
@[simp] theorem finish_dout (s : State) : (finish s).dout = s.state := rfl
@[simp] theorem finish_wasReset (s : State) : (finish s).wasReset = s.wasReset := rfl
@[simp] theorem finish_rst (s : State) : (finish s).rst = s.rst := rfl
@[simp] theorem finish_cmd (s : State) : (finish s).cmd = s.cmd := rfl
@[simp] theorem finish_script (s : State) : (finish s).script = s.script := rfl
@[simp] theorem finish_gfIn (s : State) : (finish s).gfIn = s.gfIn := rfl
@[simp] theorem finish_gfRun (s : State) : (finish s).gfRun = s.gfRun := rfl
@[simp] theorem finish_draws (s : State) : (finish s).draws = s.draws := rfl

@[simp] theorem resetEvent_op (s : State) : (resetEvent s).op = 0#1 := rfl
@[simp] theorem resetEvent_busy (s : State) : (resetEvent s).busy = 0#1 := rfl
@[simp] theorem resetEvent_rspv (s : State) : (resetEvent s).rspv = 0#1 := rfl
@[simp] theorem resetEvent_upc (s : State) : (resetEvent s).upc = 0#6 := rfl
@[simp] theorem resetEvent_state (s : State) : (resetEvent s).state = s.state := rfl
@[simp] theorem resetEvent_rk (s : State) : (resetEvent s).rk = s.rk := rfl
@[simp] theorem resetEvent_dout (s : State) : (resetEvent s).dout = s.dout := rfl
@[simp] theorem resetEvent_wasReset (s : State) : (resetEvent s).wasReset = true := rfl
@[simp] theorem resetEvent_rst (s : State) : (resetEvent s).rst = s.rst := rfl
@[simp] theorem resetEvent_cmd (s : State) : (resetEvent s).cmd = s.cmd := rfl
@[simp] theorem resetEvent_script (s : State) : (resetEvent s).script = s.script := rfl
@[simp] theorem resetEvent_gfIn (s : State) : (resetEvent s).gfIn = s.gfIn := rfl
@[simp] theorem resetEvent_gfRun (s : State) : (resetEvent s).gfRun = s.gfRun := rfl
@[simp] theorem resetEvent_draws (s : State) : (resetEvent s).draws = s.draws := rfl

/-! `retire` touches only the consumed input; `hostMove` and `endEvent` only the ports, the script and the draws. -/

@[simp] theorem retire_op (src : Source) (s : State) : (retire src s).op = s.op := by
  cases src <;> rfl
@[simp] theorem retire_busy (src : Source) (s : State) : (retire src s).busy = s.busy := by
  cases src <;> rfl
@[simp] theorem retire_rspv (src : Source) (s : State) : (retire src s).rspv = s.rspv := by
  cases src <;> rfl
@[simp] theorem retire_upc (src : Source) (s : State) : (retire src s).upc = s.upc := by
  cases src <;> rfl
@[simp] theorem retire_state (src : Source) (s : State) : (retire src s).state = s.state := by
  cases src <;> rfl
@[simp] theorem retire_rk (src : Source) (s : State) : (retire src s).rk = s.rk := by
  cases src <;> rfl
@[simp] theorem retire_dout (src : Source) (s : State) : (retire src s).dout = s.dout := by
  cases src <;> rfl
@[simp] theorem retire_wasReset (src : Source) (s : State) : (retire src s).wasReset = s.wasReset := by
  cases src <;> rfl
@[simp] theorem retire_gfIn (src : Source) (s : State) : (retire src s).gfIn = s.gfIn := by
  cases src <;> rfl
@[simp] theorem retire_rst (src : Source) (s : State) : (retire src s).rst = s.rst := by
  cases src <;> rfl
@[simp] theorem retire_script (src : Source) (s : State) : (retire src s).script = s.script := by
  cases src <;> rfl
@[simp] theorem retire_draws (src : Source) (s : State) : (retire src s).draws = s.draws := by
  cases src <;> rfl

@[simp] theorem retire_commandPort_cmd (s : State) : (retire .commandPort s).cmd = none := rfl
@[simp] theorem retire_microProgram (s : State) : retire .microProgram s = s := rfl
@[simp] theorem retire_fieldUnit_cmd (s : State) : (retire .fieldUnit s).cmd = s.cmd := rfl
@[simp] theorem retire_commandPort_gfRun (s : State) : (retire .commandPort s).gfRun = s.gfRun := rfl
@[simp] theorem retire_fieldUnit_gfRun (s : State) : (retire .fieldUnit s).gfRun = false := rfl

@[simp] theorem hostMove_op (s : State) : (hostMove s).op = s.op := by
  unfold hostMove; repeat' split
  all_goals rfl
@[simp] theorem hostMove_busy (s : State) : (hostMove s).busy = s.busy := by
  unfold hostMove; repeat' split
  all_goals rfl
@[simp] theorem hostMove_rspv (s : State) : (hostMove s).rspv = s.rspv := by
  unfold hostMove; repeat' split
  all_goals rfl
@[simp] theorem hostMove_upc (s : State) : (hostMove s).upc = s.upc := by
  unfold hostMove; repeat' split
  all_goals rfl
@[simp] theorem hostMove_state (s : State) : (hostMove s).state = s.state := by
  unfold hostMove; repeat' split
  all_goals rfl
@[simp] theorem hostMove_rk (s : State) : (hostMove s).rk = s.rk := by
  unfold hostMove; repeat' split
  all_goals rfl
@[simp] theorem hostMove_dout (s : State) : (hostMove s).dout = s.dout := by
  unfold hostMove; repeat' split
  all_goals rfl
@[simp] theorem hostMove_wasReset (s : State) : (hostMove s).wasReset = s.wasReset := by
  unfold hostMove; repeat' split
  all_goals rfl
@[simp] theorem hostMove_gfRun (s : State) : (hostMove s).gfRun = s.gfRun := by
  unfold hostMove; repeat' split
  all_goals rfl
@[simp] theorem hostMove_gfIn (s : State) : (hostMove s).gfIn = s.gfIn := by
  unfold hostMove; repeat' split
  all_goals rfl
@[simp] theorem hostMove_draws (s : State) : (hostMove s).draws = s.draws := by
  unfold hostMove; repeat' split
  all_goals rfl

@[simp] theorem endEvent_op (s : State) : (endEvent s).op = s.op := by
  simp [endEvent]
@[simp] theorem endEvent_busy (s : State) : (endEvent s).busy = s.busy := by
  simp [endEvent]
@[simp] theorem endEvent_rspv (s : State) : (endEvent s).rspv = s.rspv := by
  simp [endEvent]
@[simp] theorem endEvent_upc (s : State) : (endEvent s).upc = s.upc := by
  simp [endEvent]
@[simp] theorem endEvent_state (s : State) : (endEvent s).state = s.state := by
  simp [endEvent]
@[simp] theorem endEvent_rk (s : State) : (endEvent s).rk = s.rk := by
  simp [endEvent]
@[simp] theorem endEvent_dout (s : State) : (endEvent s).dout = s.dout := by
  simp [endEvent]
@[simp] theorem endEvent_wasReset (s : State) : (endEvent s).wasReset = s.wasReset := by
  simp [endEvent]
@[simp] theorem endEvent_gfRun (s : State) : (endEvent s).gfRun = s.gfRun := by
  simp [endEvent]
@[simp] theorem endEvent_gfIn (s : State) : (endEvent s).gfIn = s.gfIn := by
  simp [endEvent]
@[simp] theorem endEvent_draws (s : State) : (endEvent s).draws = s.draws + 1 := by
  simp [endEvent]

/-- With nothing left in the script the host keeps its pins as they are. -/
theorem endEvent_of_script_nil (s : State) (h : s.script = []) :
    endEvent s = { s with draws := s.draws + 1 } := by
  simp [endEvent, hostMove, h]

/-- The host asserts rst only by the move that does so. -/
theorem endEvent_rst_of_not_mem (s : State) (h : s.rst = 0#1) (hm : HostMove.assertReset ∉ s.script) :
    (endEvent s).rst = 0#1 ∧ HostMove.assertReset ∉ (endEvent s).script := by
  unfold endEvent hostMove
  cases hs : s.script with
  | nil => simp [h]
  | cons m rest =>
    rw [hs] at hm
    cases m <;> simp_all
    split <;> simp_all

/-- What the ports hold after the host's move: the pending command is kept unless it is withdrawn. -/
theorem endEvent_cmd_of_some (s : State) (c : Command) (h : s.cmd = some c)
    (hw : s.script.head? ≠ some .withdraw) : (endEvent s).cmd = some c := by
  unfold endEvent hostMove
  cases hs : s.script with
  | nil => simp [h]
  | cons m rest =>
    rw [hs] at hw
    cases m <;> simp_all

end Sys2Proof.Machine
end

