-- ==== Sys2Proof/Laws/Ops.lean ====
section
/-! SUPPORT. What each shared operation can do, once. -/

namespace Sys2Proof.Machine

/-- A bit is 0 or 1. -/
theorem bit_eq_zero_or_one (b : BitVec 1) : b = 0#1 ∨ b = 1#1 := by
  revert b; decide

theorem bit_ne_one_iff (b : BitVec 1) : b ≠ 1#1 ↔ b = 0#1 := by
  revert b; decide

/-- cmd_ready is 1 exactly when the core is idle and not in reset. -/
theorem cmdReady_eq_one_iff (s : State) : cmdReady s = 1#1 ↔ s.busy = 0#1 ∧ s.rst = 0#1 := by
  unfold cmdReady; split <;> simp_all

/-- A command that is taken is accepted. -/
theorem command_of_ready (op : BitVec 1) (key data : Block) (s : State) (hb : s.busy = 0#1) (hr : s.rst = 0#1) :
    command op key data s = .next (accept op key data s) := by
  simp [command, (cmdReady_eq_one_iff s).2 ⟨hb, hr⟩]

/-- A command presented to a busy core changes nothing. -/
theorem command_of_busy (op : BitVec 1) (key data : Block) (s : State) (hb : s.busy = 1#1) :
    command op key data s = .next s := by
  have h : cmdReady s ≠ 1#1 := fun h => by
    have h' := ((cmdReady_eq_one_iff s).1 h).1
    simp [hb] at h'
  simp [command, h]

/-- `mapNext` answers a next state exactly when the outcome under it does. -/
theorem mapNext_eq_next (f : State → State) (r : Result) (t : State) :
    mapNext f r = .next t ↔ ∃ u, r = .next u ∧ t = f u := by
  cases r <;> simp [mapNext, eq_comm]

theorem mapNext_eq_fault (f : State → State) (r : Result) (e : Fault) :
    mapNext f r = .fault e ↔ r = .fault e := by
  cases r <;> simp [mapNext]

@[simp] theorem mapNext_next (f : State → State) (s : State) : mapNext f (.next s) = .next (f s) := rfl

/-- KEXP with a legal index completes. -/
theorem execKexp_of_legal (k : BitVec 4) (s : State) (h : 1 ≤ k.toNat ∧ k.toNat ≤ 10) :
    execKexp k s = .next (advance (writeRoundKey k.toNat (by omega)
      (nextRoundKey (s.rk[k.toNat - 1]'(by omega)) k.toNat h) s)) := by
  simp [execKexp, h]

/-- ARK with a legal index completes. -/
theorem execArk_of_legal (k : BitVec 4) (s : State) (h : k.toNat ≤ 10) :
    execArk k s = .next (advance (writeState (addRoundKey s.state (s.rk[k.toNat]'(by omega))) s)) := by
  simp [execArk, h, roundUop]

/-- The levels that `driveGf` sets are the ones asked for. -/
theorem gfFields_gfWord (fsel : BitVec 2) (a b : Byte) :
    gfFsel (gfWord fsel a b) = fsel ∧ gfA (gfWord fsel a b) = a ∧ gfB (gfWord fsel a b) = b := by
  refine ⟨?_, ?_, ?_⟩ <;> ext i hi <;>
    simp [gfFsel, gfA, gfB, gfWord] <;> grind

/-- The unit's inputs have no event when nothing there is to be run and fsel is not the reserved one. -/
theorem fieldWaits_eq_false_iff (s : State) :
    fieldWaits s = false ↔ s.gfRun = false ∧ gfFsel s.gfIn ≠ 0b11#2 := by
  simp [fieldWaits]

/-- With its inputs driven, the unit's output is its function of them (40_field_arithmetic.md R111). -/
@[simp] theorem gfY_driveGf (fsel : BitVec 2) (a b : Byte) (s : State) :
    gfY (driveGf fsel a b s) = gfUnit fsel a b := by
  obtain ⟨h1, h2, h3⟩ := gfFields_gfWord fsel a b
  simp [gfY, h1, h2, h3]

/-- A field-unit operation that exists completes, changing only the levels on the unit's inputs. -/
theorem fieldOperation_of_ok (fsel : BitVec 2) (a b y : Byte) (s : State) (h : gfUnit fsel a b = .ok y) :
    fieldOperation fsel a b s = .next (driveGf fsel a b s) := by
  simp [fieldOperation, h]

/-- No instruction is refused. -/
theorem exec_ne_refused (i : Instr) (s : State) (r : Refusal) : exec i s ≠ .refused r := by
  cases i <;>
    simp only [exec, execEncrypt, execDecrypt, execKexp, execArk, execSb, execIsb, execSr, execIsr, execMc, execImc,
      execFin, execGfAdd, execGfSub, execGfMul, command, roundUop, fieldOperation] <;>
    (try split) <;> simp

/-- Every well-formed instruction completes, whatever the state. -/
theorem exec_of_wellFormed (i : Instr) (s : State) (h : wellFormed i = true) : ∃ t, exec i s = .next t := by
  cases i with
  | encrypt key data => simp only [exec, execEncrypt, command]; split <;> exact ⟨_, rfl⟩
  | decrypt key data => simp only [exec, execDecrypt, command]; split <;> exact ⟨_, rfl⟩
  | kexp k => exact ⟨_, execKexp_of_legal k s (by simpa [wellFormed] using h)⟩
  | ark k => exact ⟨_, execArk_of_legal k s (by simpa [wellFormed] using h)⟩
  | _ => exact ⟨_, rfl⟩

end Sys2Proof.Machine
end

