-- ==== Sys2Proof/Laws/Step.lean ====
section
/-! SUPPORT. What one step can do: one equation per event, and the inversion every invariant goes through. -/

namespace Sys2Proof.Machine

theorem step_of_reset (s : State) (h : nextEvent s = .reset) : step s = .next (endEvent (resetEvent s)) := by
  simp [step, h]

theorem step_of_idle (s : State) (h : nextEvent s = .idle) : step s = .next (endEvent s) := by
  simp [step, h]

theorem step_of_stop (s : State) (f : Fault) (h : nextEvent s = .stop f) : step s = .fault f := by
  simp [step, h]

theorem step_of_run (s : State) (src : Source) (i : Instr) (h : nextEvent s = .run src i) :
    step s = mapNext (fun t => endEvent (retire src t)) (exec i s) := by
  simp [step, h]

/-- Everything a step that goes on can have done. -/
theorem step_next_cases (s t : State) (h : step s = .next t) :
    (nextEvent s = .reset ∧ t = endEvent (resetEvent s)) ∨
    (nextEvent s = .idle ∧ t = endEvent s) ∨
    (∃ src i u, nextEvent s = .run src i ∧ exec i s = .next u ∧ t = endEvent (retire src u)) := by
  unfold step at h
  split at h
  · rename_i he; exact .inl ⟨he, by cases h; rfl⟩
  · rename_i he; exact .inr (.inl ⟨he, by cases h; rfl⟩)
  · cases h
  · rename_i src i he
    obtain ⟨u, hu, rfl⟩ := (mapNext_eq_next _ _ _).1 h
    exact .inr (.inr ⟨src, i, u, he, hu, rfl⟩)

/-- Where an instruction that runs comes from, and the conditions of its event. -/
theorem nextEvent_run_cases (s : State) (src : Source) (i : Instr) (h : nextEvent s = .run src i) :
    s.rst = 0#1 ∧ s.wasReset = true ∧
    ((src = .fieldUnit ∧ fieldWaits s = true ∧ decodeGf s.gfIn = .ok i) ∨
     (src = .microProgram ∧ fieldWaits s = false ∧ s.busy = 1#1 ∧
        ∃ u, memRead (programOf s.op) s.upc.toNat = some u ∧ decodeUop u = .ok i) ∨
     (src = .commandPort ∧ fieldWaits s = false ∧ s.busy = 0#1 ∧
        ∃ c, s.cmd = some c ∧ i = decodeCmd (commandWord c))) := by
  unfold nextEvent at h
  split at h
  · cases h
  · rename_i hr
    split at h
    · cases h
    · rename_i hw
      refine ⟨(bit_ne_one_iff _).1 hr, by simpa using hw, ?_⟩
      split at h
      · rename_i hg
        unfold fieldEvent at h
        split at h
        · rename_i j hj; cases h; exact .inl ⟨rfl, hg, hj⟩
        · cases h
      · rename_i hg
        have hg := Bool.eq_false_iff.2 hg
        split at h
        · rename_i hb
          unfold fetchEvent uopEvent at h
          split at h
          · rename_i u hu
            split at h
            · rename_i j hj; cases h; exact .inr (.inl ⟨rfl, hg, hb, u, hu, hj⟩)
            · cases h
          · cases h
        · rename_i hb
          unfold idleEvent at h
          split at h
          · rename_i c hc; cases h; exact .inr (.inr ⟨rfl, hg, (bit_ne_one_iff _).1 hb, c, hc, rfl⟩)
          · cases h

/-- No step is refused. -/
theorem step_ne_refused (s : State) (r : Refusal) : step s ≠ .refused r := by
  unfold step
  split
  · simp
  · simp
  · simp
  · rename_i src i _
    have h := exec_ne_refused i s r
    cases he : exec i s <;> simp_all [mapNext]

/-- A run of one step more is a step and then the run. -/
theorem core_run_succ (n : Nat) (s : State) : core.run (n + 1) s =
    match step s with
    | .next t => core.run n t
    | .fault f => .fault f
    | .refused r => .refused r := by
  have h : core.step s = step s := rfl
  simp only [Host.Core.run, h]
  cases step s <;> rfl

end Sys2Proof.Machine
end

