-- ==== Sys2Proof/Laws/Decode.lean ====
section
/-! SUPPORT. What the decoders can answer, and what the micro-programs hold. -/

namespace Sys2Proof.Machine

/-- A uop that decodes is a well-formed instruction of the UOP format (30_encoding.md R85, R86). -/
theorem decodeUop_ok (u : BitVec 8) (i : Instr) (h : decodeUop u = .ok i) :
    instrFormat i = .uop ∧ wellFormed i = true := by
  revert h
  unfold decodeUop decodePlain
  split <;> (try split) <;> intro h <;> simp_all <;> subst h <;> simp_all [instrFormat, wellFormed]

/-- A GF word that decodes is an instruction of the GF format (30_encoding.md R89). -/
theorem decodeGf_ok (w : BitVec 18) (i : Instr) (h : decodeGf w = .ok i) :
    instrFormat i = .gf ∧ wellFormed i = true := by
  revert h
  unfold decodeGf
  split <;> intro h <;> simp_all <;> subst h <;> exact ⟨rfl, rfl⟩

/-- A GF word that does not decode has fsel = 0b11 (30_encoding.md R89). -/
theorem decodeGf_error (w : BitVec 18) (e : Reject) (h : decodeGf w = .error e) : gfFsel w = 0b11#2 := by
  have hx : ∀ x : BitVec 2, x.toNat ≠ 0 → x.toNat ≠ 1 → x.toNat ≠ 2 → x = 0b11#2 := by decide
  unfold decodeGf at h
  split at h <;> simp_all

/-- A GF word with the reserved function select does not decode (30_encoding.md R89). -/
theorem gfFsel_of_decodeGf_ok (w : BitVec 18) (i : Instr) (h : decodeGf w = .ok i) : gfFsel w ≠ 0b11#2 := by
  intro h3
  simp [decodeGf, h3] at h

/-- A command word decodes to one of the two commands (30_encoding.md R82). -/
theorem decodeCmd_cases (w : BitVec 257) :
    (cmdOpOf w = 0#1 ∧ decodeCmd w = .encrypt (cmdKeyOf w) (cmdDataOf w)) ∨
    (cmdOpOf w = 1#1 ∧ decodeCmd w = .decrypt (cmdKeyOf w) (cmdDataOf w)) := by
  rcases bit_eq_zero_or_one (cmdOpOf w) with h | h
  · exact .inl ⟨h, by simp [decodeCmd, h]⟩
  · exact .inr ⟨h, by simp [decodeCmd, h]⟩

/-- The addresses 51 and up of a micro-program do not exist (20_memory.md R55). -/
theorem memRead_program_eq_none_iff (op : BitVec 1) (n : Nat) : memRead (programOf op) n = none ↔ 50 < n := by
  unfold programOf
  split <;> simp [memRead, spaceContents, uprogEnc, uprogDec] <;> omega

theorem uprogEnc_decodes : uprogEnc.all (fun u => (decodeUop u).toBool) = true := by decide

theorem uprogDec_decodes : uprogDec.all (fun u => (decodeUop u).toBool) = true := by decide

/-- Every entry of a micro-program decodes (30_encoding.md R87). -/
theorem program_entry_decodes (op : BitVec 1) (n : Nat) (u : BitVec 8) (h : memRead (programOf op) n = some u) :
    ∃ i, decodeUop u = .ok i := by
  have hm : (decodeUop u).toBool = true := by
    unfold programOf memRead at h
    split at h
    · exact List.all_eq_true.1 uprogEnc_decodes u (List.mem_of_getElem? h)
    · exact List.all_eq_true.1 uprogDec_decodes u (List.mem_of_getElem? h)
  cases hd : decodeUop u with
  | ok i => exact ⟨i, rfl⟩
  | error e => simp [hd, Except.toBool] at hm

/-- An instruction a step runs is well formed. -/
theorem wellFormed_of_run (s : State) (src : Source) (i : Instr) (h : nextEvent s = .run src i) :
    wellFormed i = true := by
  obtain ⟨-, -, h⟩ := nextEvent_run_cases s src i h
  rcases h with ⟨-, -, h⟩ | ⟨-, -, -, u, -, h⟩ | ⟨-, -, -, c, -, rfl⟩
  · exact (decodeGf_ok _ i h).2
  · exact (decodeUop_ok u i h).2
  · rcases decodeCmd_cases (commandWord c) with ⟨-, h⟩ | ⟨-, h⟩ <;> rw [h] <;> rfl

/-- The format of an instruction a step runs is that of its source. -/
theorem instrFormat_of_run (s : State) (src : Source) (i : Instr) (h : nextEvent s = .run src i) :
    instrFormat i = (match src with | .commandPort => .cmd | .microProgram => .uop | .fieldUnit => .gf) := by
  obtain ⟨-, -, h⟩ := nextEvent_run_cases s src i h
  rcases h with ⟨rfl, -, h⟩ | ⟨rfl, -, -, u, -, h⟩ | ⟨rfl, -, -, c, -, rfl⟩
  · exact (decodeGf_ok _ i h).1
  · exact (decodeUop_ok u i h).1
  · rcases decodeCmd_cases (commandWord c) with ⟨-, h⟩ | ⟨-, h⟩ <;> simp only [h, instrFormat]

end Sys2Proof.Machine
end

