-- ==== Sys2Proof/Laws/Exec.lean ====
section
/-! SUPPORT. What an instruction of each format can do, once: the inversions that invariants go through. -/

namespace Sys2Proof.Machine

/-- A uop but KEXP and FIN writes STATE and advances UPC (41_round_transformations.md R140). -/
theorem roundUop_frame (f : Block → Block) (s t : State) (h : roundUop f s = .next t) :
    t = advance (writeState (f s.state) s) := (Host.Outcome.next.inj h).symm

/-- KEXP k that completes has a legal k, and writes RK[k] and UPC (42_key_schedule.md R174). -/
theorem execKexp_next (k : BitVec 4) (s t : State) (h : execKexp k s = .next t) :
    ∃ hk : 1 ≤ k.toNat ∧ k.toNat ≤ 10,
      t = advance (writeRoundKey k.toNat (by omega) (nextRoundKey (s.rk[k.toNat - 1]'(by omega)) k.toNat hk) s) := by
  by_cases hk : 1 ≤ k.toNat ∧ k.toNat ≤ 10
  · rw [execKexp_of_legal k s hk] at h
    exact ⟨hk, (Host.Outcome.next.inj h).symm⟩
  · simp [execKexp, hk] at h

/-- ARK k that completes has a legal k, and writes STATE and UPC (41_round_transformations.md R148). -/
theorem execArk_next (k : BitVec 4) (s t : State) (h : execArk k s = .next t) :
    ∃ hk : k.toNat ≤ 10, t = advance (writeState (addRoundKey s.state (s.rk[k.toNat]'(by omega))) s) := by
  by_cases hk : k.toNat ≤ 10
  · rw [execArk_of_legal k s hk] at h
    exact ⟨hk, (Host.Outcome.next.inj h).symm⟩
  · simp [execArk, hk] at h

/-- A uop that completes is FIN, or a KEXP, or leaves the round-key file alone; all but FIN change only STATE, RK and
UPC, and add 1 to UPC (10_state.md R38). -/
theorem exec_uop_next (i : Instr) (s t : State) (hf : instrFormat i = .uop) (h : exec i s = .next t) :
    (i = .fin ∧ t = finish s) ∨
    (∃ k hk, i = .kexp k ∧
      t = advance (writeRoundKey k.toNat (by omega)
        (nextRoundKey (s.rk[k.toNat - 1]'(by have : 1 ≤ k.toNat ∧ k.toNat ≤ 10 := hk; omega)) k.toNat hk) s)) ∨
    (i ≠ .fin ∧ (∀ k, i ≠ .kexp k) ∧ ∃ b, t = advance (writeState b s)) := by
  cases i with
  | encrypt key data => cases hf
  | decrypt key data => cases hf
  | gfAdd a b => cases hf
  | gfSub a b => cases hf
  | gfMul a b => cases hf
  | fin => exact .inl ⟨rfl, (Host.Outcome.next.inj h).symm⟩
  | kexp k =>
    obtain ⟨hk, ht⟩ := execKexp_next k s t h
    exact .inr (.inl ⟨k, hk, rfl, ht⟩)
  | ark k =>
    obtain ⟨_, ht⟩ := execArk_next k s t h
    exact .inr (.inr ⟨by simp, by simp, _, ht⟩)
  | sb => exact .inr (.inr ⟨by simp, by simp, _, roundUop_frame subBytes s t h⟩)
  | isb => exact .inr (.inr ⟨by simp, by simp, _, roundUop_frame invSubBytes s t h⟩)
  | sr => exact .inr (.inr ⟨by simp, by simp, _, roundUop_frame shiftRows s t h⟩)
  | isr => exact .inr (.inr ⟨by simp, by simp, _, roundUop_frame invShiftRows s t h⟩)
  | mc => exact .inr (.inr ⟨by simp, by simp, _, roundUop_frame mixColumns s t h⟩)
  | imc => exact .inr (.inr ⟨by simp, by simp, _, roundUop_frame invMixColumns s t h⟩)

/-- A field-unit operation changes only the levels on the unit's inputs, which become its own word
(40_field_arithmetic.md R111). -/
theorem exec_gf_next (i : Instr) (s t : State) (hf : instrFormat i = .gf) (h : exec i s = .next t) :
    ∃ fsel a b, t = driveGf fsel a b s ∧ encode i = .gf (gfWord fsel a b) := by
  cases i with
  | gfAdd a b => exact ⟨_, a, b, (Host.Outcome.next.inj h).symm, rfl⟩
  | gfSub a b => exact ⟨_, a, b, (Host.Outcome.next.inj h).symm, rfl⟩
  | gfMul a b => exact ⟨_, a, b, (Host.Outcome.next.inj h).symm, rfl⟩
  | _ => cases hf

/-- A command on a ready core is accepted (43_sequencer.md R192). -/
theorem exec_cmd_next (w : BitVec 257) (s : State) (hb : s.busy = 0#1) (hr : s.rst = 0#1) :
    exec (decodeCmd w) s = .next (accept (cmdOpOf w) (cmdKeyOf w) (cmdDataOf w) s) := by
  rcases decodeCmd_cases w with ⟨ho, hd⟩ | ⟨ho, hd⟩ <;> rw [hd, ho] <;> exact command_of_ready _ _ _ s hb hr

end Sys2Proof.Machine
end

