-- ==== Sys2Proof/Laws/PerInstr.lean ====
section
/-! SUPPORT. Statements made per instruction. Family CodeLength: the word of an instruction is of the instruction's
format, and fits its fixed length (30_encoding.md R80, R90). -/

namespace Sys2Proof.Laws.CodeLength

/-- The encoded word has the format of the instruction and no bit above the format's length. -/
def Statement (i : Instr) : Prop :=
  codeFormat (encode i) = instrFormat i ∧ codeNat (encode i) < 2 ^ formatBits (instrFormat i)

theorem encrypt (key data : Block) : Statement (.encrypt key data) :=
  ⟨rfl, (cmdWord 0#1 (bus key) (bus data)).isLt⟩
theorem decrypt (key data : Block) : Statement (.decrypt key data) :=
  ⟨rfl, (cmdWord 1#1 (bus key) (bus data)).isLt⟩
theorem kexp (k : BitVec 4) : Statement (.kexp k) := ⟨rfl, BitVec.isLt _⟩
theorem ark (k : BitVec 4) : Statement (.ark k) := ⟨rfl, BitVec.isLt _⟩
theorem sb : Statement .sb := ⟨rfl, BitVec.isLt _⟩
theorem isb : Statement .isb := ⟨rfl, BitVec.isLt _⟩
theorem sr : Statement .sr := ⟨rfl, BitVec.isLt _⟩
theorem isr : Statement .isr := ⟨rfl, BitVec.isLt _⟩
theorem mc : Statement .mc := ⟨rfl, BitVec.isLt _⟩
theorem imc : Statement .imc := ⟨rfl, BitVec.isLt _⟩
theorem fin : Statement .fin := ⟨rfl, BitVec.isLt _⟩
theorem gfAdd (a b : Byte) : Statement (.gfAdd a b) := ⟨rfl, BitVec.isLt _⟩
theorem gfSub (a b : Byte) : Statement (.gfSub a b) := ⟨rfl, BitVec.isLt _⟩
theorem gfMul (a b : Byte) : Statement (.gfMul a b) := ⟨rfl, BitVec.isLt _⟩

end Sys2Proof.Laws.CodeLength
end

