-- ==== Sys2Proof/Machine/Phases.lean ====
section
/-! DEFINITION. The source's names for the sequencer's states, as views of the registers (43_sequencer.md R190, R199,
R203). No rule of the step reads them. -/

namespace Sys2Proof.Machine

/-- The conditions of the sequencer (R190) with the source's state names (R199): Initial is the schedule and the first
ARK, then the numbered rounds, the final round, and Done, the FIN uop. -/
inductive Phase where
  | idle
  | initial
  | round (r : Nat)
  | finalRound
  | done
  | outOfRange
  deriving DecidableEq, Repr

/-- The phase of a running core: rounds 1 to 9 go up in encryption and down in decryption (R199). -/
def runningPhase (op : BitVec 1) (upc : Nat) : Phase :=
  if upc ≤ 10 then .initial
  else if upc ≤ 46 then .round (if op = 0#1 then 1 + (upc - 11) / 4 else 9 - (upc - 11) / 4)
  else if upc ≤ 49 then .finalRound
  else if upc = 50 then .done
  else .outOfRange

/-- The phase of a state (R190, R199). -/
def phase (s : State) : Phase :=
  if s.busy = 1#1 then runningPhase s.op s.upc.toNat else .idle

/-- Idle with no command presented (R203). -/
def quiescent (s : State) : Bool := s.busy = 0#1 && s.upc = 0#6 && s.cmd.isNone

end Sys2Proof.Machine
end

