-- ==== Sys2Proof/Tests/Slice0.lean ====
section
/-! SUPPORT. The model's own tests. Every expected value is from spec/95_test_vectors.md or from the encodings of
spec/30_encoding.md; a witness theorem shows that the hypotheses of a statement are met by a concrete state. -/

namespace Sys2Proof.Tests

open Sys2Proof.Machine Sys2Proof.Claims

/-! ### Helpers -/

/-- The state after an outcome, if it has one. -/
def nextOf : Result → Option State
  | .next s => some s
  | .fault _ => none
  | .refused _ => none

/-- The fault of an outcome, if it is one. -/
def faultOf : Result → Option Fault
  | .fault f => some f
  | .next _ => none
  | .refused _ => none

/-- A core running at an index of the micro-program of `op`, with the given STATE. -/
def running (op : BitVec 1) (upc : BitVec 6) (v : BitVec 128) : State :=
  { State.reset with op := op, busy := 1#1, upc := upc, state := bytes v }

/-- A core that presents a result. -/
def answered : State := { State.reset with rspv := 1#1, dout := bytes 0x69c4e0d86a7b0430d8cdb78070b4c55a }

/-- The key of vector L1-1. -/
def katKey : BitVec 128 := 0x000102030405060708090a0b0c0d0e0f

/-- The command of vector L1-1. -/
def katEncrypt : Command := ⟨0#1, katKey, 0x00112233445566778899aabbccddeeff⟩

/-- The command of vector L1-2. -/
def katDecrypt : Command := ⟨1#1, katKey, 0x69c4e0d86a7b0430d8cdb78070b4c55a⟩

/-- An idle core to which a command is presented. -/
def presented (c : Command) : State := { State.reset with cmd := some c }

/-! ### WellFormed refuses what 30_encoding.md R86 excludes -/

theorem test_kexp_zero_ill_formed : wellFormed (.kexp 0#4) = false := by decide
theorem test_kexp_eleven_ill_formed : wellFormed (.kexp 11#4) = false := by decide
theorem test_ark_eleven_ill_formed : wellFormed (.ark 11#4) = false := by decide
theorem test_kexp_bounds_well_formed : wellFormed (.kexp 1#4) && wellFormed (.kexp 10#4) = true := by decide
theorem test_ark_bounds_well_formed : wellFormed (.ark 0#4) && wellFormed (.ark 10#4) = true := by decide

/-! ### Decoding: words written from the tables of R81, R85, R89 (95_test_vectors.md L2-ENC, L2-GF) -/

theorem test_decode_kexp : decodeUop 0b00011010#8 = .ok (.kexp 10#4) := by decide
theorem test_decode_ark : decodeUop 0b00100111#8 = .ok (.ark 7#4) := by decide
theorem test_decode_sb : decodeUop 0b00110000#8 = .ok .sb := by decide
theorem test_decode_isb : decodeUop 0b01000000#8 = .ok .isb := by decide
theorem test_decode_sr : decodeUop 0b01010000#8 = .ok .sr := by decide
theorem test_decode_isr : decodeUop 0b01100000#8 = .ok .isr := by decide
theorem test_decode_mc : decodeUop 0b01110000#8 = .ok .mc := by decide
theorem test_decode_imc : decodeUop 0b10000000#8 = .ok .imc := by decide
theorem test_decode_fin : decodeUop 0b10010000#8 = .ok .fin := by decide
theorem test_decode_gfAdd : decodeGf 0b000101011110000011#18 = .ok (.gfAdd 0x57#8 0x83#8) := by decide
theorem test_decode_gfSub : decodeGf 0b010101011110000011#18 = .ok (.gfSub 0x57#8 0x83#8) := by decide
theorem test_decode_gfMul : decodeGf 0b100101011110000011#18 = .ok (.gfMul 0x57#8 0x83#8) := by decide
theorem test_decode_gf_reserved :
    decodeGf 0b110101011110000011#18 = .error (.reservedGfFunction 0b11#2) := by decide

/-- The CMD word of vector L1-1, op ++ key ++ data. -/
theorem test_decode_encrypt :
    decodeCmd 0x0000102030405060708090a0b0c0d0e0f00112233445566778899aabbccddeeff#257 =
      .encrypt #v[0x00#8, 0x01#8, 0x02#8, 0x03#8, 0x04#8, 0x05#8, 0x06#8, 0x07#8, 0x08#8, 0x09#8, 0x0a#8, 0x0b#8,
          0x0c#8, 0x0d#8, 0x0e#8, 0x0f#8]
        #v[0x00#8, 0x11#8, 0x22#8, 0x33#8, 0x44#8, 0x55#8, 0x66#8, 0x77#8, 0x88#8, 0x99#8, 0xaa#8, 0xbb#8,
          0xcc#8, 0xdd#8, 0xee#8, 0xff#8] := by decide

/-- The CMD word of vector L1-2. -/
theorem test_decode_decrypt :
    decodeCmd 0x1000102030405060708090a0b0c0d0e0f69c4e0d86a7b0430d8cdb78070b4c55a#257 =
      .decrypt #v[0x00#8, 0x01#8, 0x02#8, 0x03#8, 0x04#8, 0x05#8, 0x06#8, 0x07#8, 0x08#8, 0x09#8, 0x0a#8, 0x0b#8,
          0x0c#8, 0x0d#8, 0x0e#8, 0x0f#8]
        #v[0x69#8, 0xc4#8, 0xe0#8, 0xd8#8, 0x6a#8, 0x7b#8, 0x04#8, 0x30#8, 0xd8#8, 0xcd#8, 0xb7#8, 0x80#8,
          0x70#8, 0xb4#8, 0xc5#8, 0x5a#8] := by decide

/-- The reserved rows of the table in L2-ENC. -/
theorem test_decode_reserved_uops :
    [0x00#8, 0x10#8, 0x1B#8, 0x2B#8, 0x31#8, 0x9F#8, 0xA0#8, 0xFF#8].all
      (fun u => decodeUop u = .error (.reservedUop u)) = true := by decide

/-- The written forms of R91 to R94. -/
theorem test_written_encRound : writtenPseudo (.encRound ⟨9#4, by decide⟩) =
    ['E', 'N', 'C', '_', 'R', 'O', 'U', 'N', 'D', ' ', '9'] := by decide
theorem test_written_ark : written (.ark 10#4) = ['A', 'R', 'K', ' ', '1', '0'] := by decide
theorem test_written_gfMul :
    written (.gfMul 0x57#8 0x83#8) =
      ['G', 'F', '.', 'M', 'U', 'L', ' ', '0', 'x', '5', '7', ',', ' ', '0', 'x', '8', '3'] := by decide

/-! ### Each instruction on a vector of 95_test_vectors.md -/

/-- L2-SEQ row 3: (OP, BUSY, RSPV, UPC) after accept of ENCRYPT. -/
theorem test_encrypt_accepts :
    (nextOf (exec (.encrypt (bytes katKey) (bytes 7)) State.reset)).map
      (fun t => (t.op, t.busy, t.rspv, t.upc, t.state[15], t.rk[0][15])) =
      some (0#1, 1#1, 0#1, 0#6, 7#8, 0x0f#8) := by decide

/-- L2-SEQ row 8: accept of DECRYPT while a result is presented. -/
theorem test_decrypt_accepts :
    (nextOf (exec (.decrypt (bytes katKey) (bytes 7)) answered)).map
      (fun t => (t.op, t.busy, t.rspv, t.upc)) = some (1#1, 1#1, 0#1, 0#6) := by decide

/-- L2-SEQ row 7: a presented command while BUSY = 1: the uop at 20 runs instead. -/
theorem test_command_waits :
    (nextOf (step { running 0#1 20#6 0 with cmd := some katEncrypt })).map
      (fun t => (t.op, t.busy, t.rspv, t.upc, t.cmd)) = some (0#1, 1#1, 0#1, 21#6, some katEncrypt) := by decide

/-- Step 0 of L1-1. -/
theorem test_kexp_one :
    (nextOf (exec (.kexp 1#4) { State.reset with rk := State.reset.rk.set 0 (bytes katKey) })).map (·.rk[1]) =
      some (bytes 0xd6aa74fdd2af72fadaa678f1d6ab76fe) := by decide

/-- Step 9 of L1-1: the last round constant. -/
theorem test_kexp_ten :
    (nextOf (exec (.kexp 10#4)
      { State.reset with rk := State.reset.rk.set 9 (bytes 0x549932d1f08557681093ed9cbe2c974e) })).map
      (fun t => (t.rk[10], t.upc)) = some (bytes 0x13111d7fe3944a17f307a78b4d2b30c5, 1#6) := by decide

/-- Step 10 of L1-1. -/
theorem test_ark_zero :
    (nextOf (exec (.ark 0#4) { running 0#1 10#6 0x00112233445566778899aabbccddeeff with
      rk := State.reset.rk.set 0 (bytes katKey) })).map (fun t => (t.state, t.upc)) =
      some (bytes 0x00102030405060708090a0b0c0d0e0f0, 11#6) := by decide

theorem test_ark_illegal : faultOf (exec (.ark 11#4) State.reset) = some (.reservedUop 0#6 0x2B#8) := by decide

theorem test_kexp_illegal : faultOf (exec (.kexp 0#4) State.reset) = some (.reservedUop 0#6 0x10#8) := by decide

/-- L2-SB, first row. -/
theorem test_sb :
    (nextOf (exec .sb (running 0#1 11#6 0x000102030405060708090a0b0c0d0e0f))).map (·.state) =
      some (bytes 0x637c777bf26b6fc53001672bfed7ab76) := by decide

/-- L2-SB, third row. -/
theorem test_isb :
    (nextOf (exec .isb (running 1#1 12#6 0x00112233445566778899aabbccddeeff))).map (·.state) =
      some (bytes 0x52e3946686edd30297f962fe27c9997d) := by decide

/-- L2-SR, first row. -/
theorem test_sr :
    (nextOf (exec .sr (running 0#1 12#6 0x000102030405060708090a0b0c0d0e0f))).map (·.state) =
      some (bytes 0x00050a0f04090e03080d02070c01060b) := by decide

theorem test_isr :
    (nextOf (exec .isr (running 1#1 11#6 0x000102030405060708090a0b0c0d0e0f))).map (·.state) =
      some (bytes 0x000d0a0704010e0b0805020f0c090603) := by decide

/-- L2-MC, whole states. -/
theorem test_mc :
    (nextOf (exec .mc (running 0#1 13#6 0x6353e08c0960e104cd70b751bacad0e7))).map (·.state) =
      some (bytes 0x5f72641557f5bc92f7be3b291db9f91a) := by decide

theorem test_imc :
    (nextOf (exec .imc (running 1#1 14#6 0x6353e08c0960e104cd70b751bacad0e7))).map (·.state) =
      some (bytes 0xb3f58892d6723d15ead42643a00344a0) := by decide

/-- Step 50 of L1-1 and row 6 of L2-SEQ. -/
theorem test_fin :
    (nextOf (step (running 0#1 50#6 0x69c4e0d86a7b0430d8cdb78070b4c55a))).map
      (fun t => (t.op, t.busy, t.rspv, t.upc, rspData t)) =
      some (0#1, 0#1, 1#1, 0#6, 0x69c4e0d86a7b0430d8cdb78070b4c55a) := by decide

/-- L2-GF: the words 0x05783, 0x15783 and 0x25783, run by a step. -/
theorem test_gfAdd :
    (nextOf (step { State.reset with gfIn := 0x05783#18, gfRun := true })).map (fun t => ((gfY t).toOption, t.gfRun)) =
      some (some 0xd4#8, false) := by decide

theorem test_gfSub :
    (nextOf (step { State.reset with gfIn := 0x15783#18, gfRun := true })).map (fun t => ((gfY t).toOption, t.gfRun)) =
      some (some 0xd4#8, false) := by decide

theorem test_gfMul :
    (nextOf (step { State.reset with gfIn := 0x25783#18, gfRun := true })).map (fun t => ((gfY t).toOption, t.gfRun)) =
      some (some 0xc1#8, false) := by decide

/-- L2-GF: the densest accumulator. -/
theorem test_gmul_densest : (carrylessProduct 0xff#8 0xff#8, gmul 0xff#8 0xff#8) = (0x5555#16, 0x13#8) := by decide

/-- L2-GF: the reserved function select. -/
theorem test_gf_reserved :
    faultOf (step { State.reset with gfIn := 0x35783#18 }) = some (.reservedGfFunction 0b11#2) := by decide

/-- L2-SEQ rows 9 and 10: reset abandons a command, and wins over a presented one. -/
theorem test_reset_wins :
    (nextOf (step { running 0#1 20#6 5 with rst := 1#1, cmd := some katEncrypt })).map
      (fun t => (t.op, t.busy, t.rspv, t.upc, t.cmd)) =
      some (0#1, 0#1, 0#1, 0#6, some katEncrypt) := by decide

/-- U6: UPC out of range. -/
theorem test_upc_out_of_range : faultOf (step (running 1#1 51#6 0)) = some (.upcOutOfRange 51#6) := by decide

/-- L1-1: the source's known answer. -/
theorem test_known_answer_encrypt :
    encryptBlock (bytes 0x00112233445566778899aabbccddeeff) (bytes katKey) =
      bytes 0x69c4e0d86a7b0430d8cdb78070b4c55a := by decide +kernel

/-- L1-2. -/
theorem test_known_answer_decrypt :
    decryptBlock (bytes 0x69c4e0d86a7b0430d8cdb78070b4c55a) (bytes katKey) =
      bytes 0x00112233445566778899aabbccddeeff := by decide +kernel

/-- The word recurrence agrees with L2-KEXP-1: W[43] is the last word of RK[10]. -/
theorem test_schedule_word :
    scheduleWord (bytes katKey) 43 = #v[0x4d#8, 0x2b#8, 0x30#8, 0xc5#8] := by decide +kernel

/-- R197, R198, R199: round 9 of encryption is at 43 to 46, round 1 of decryption too. -/
theorem test_phases :
    (phase (running 0#1 43#6 0), phase (running 1#1 46#6 0), phase (running 0#1 11#6 0), phase (running 0#1 10#6 0),
      phase (running 1#1 50#6 0), phase State.reset) =
      (.round 9, .round 1, .round 1, .initial, .done, .idle) := by decide

theorem test_quiescent : quiescent State.reset && !quiescent (presented katEncrypt) = true := by decide

/-! ### The host's questions: a table word decoded, and run as the first instruction after reset -/

theorem test_table_word_uop : decodeTableWord 8 0x2A = some (.ark 10#4) := by decide
theorem test_table_word_gf : decodeTableWord 24 0x05783 = some (.gfAdd 0x57#8 0x83#8) := by decide
theorem test_table_word_cmd : (decodeTableWord 264 (2 ^ 256)).isSome = true := by decide

/-- SR placed after reset runs: the micro-program of encryption goes on behind it. -/
theorem test_fetch_word_uop :
    (nextOf (step (State.reset.withFetchWord 8 0x50))).map (fun t => (t.busy, t.upc)) = some (1#1, 13#6) := by decide

theorem test_fetch_word_cmd :
    (nextOf (step (State.reset.withFetchWord 264 (2 ^ 256 + 5)))).map
      (fun t => (t.op, t.busy, t.state[15])) = some (1#1, 1#1, 5#8) := by decide

theorem test_fetch_word_gf :
    (nextOf (step (State.reset.withFetchWord 24 0x25783))).map (fun t => (gfY t).toOption) = some (some 0xc1#8) := by decide

/-! ### Witnesses: the hypotheses of each statement are met -/

theorem test_witness_DecodeOfEncodeIsTheInstruction :
    wellFormed (.kexp 1#4) = true ∧ wellFormed (.kexp 10#4) = true ∧ wellFormed (.ark 0#4) = true ∧
      wellFormed (.ark 10#4) = true ∧ wellFormed (.gfMul 0xff#8 0xff#8) = true := by decide

theorem test_witness_EncodeOfDecodeIsTheWord :
    decode (.uop 0x1A#8) = .ok (.kexp 10#4) ∧ decode (.gf 0x2ffff#18) = .ok (.gfMul 0xff#8 0xff#8) := by decide

/-- Each reserved clause at its boundary, and the legal neighbours. -/
theorem test_witness_ReservedUopsAreTheListedOnes :
    uopEvent 3#6 0x0F#8 = .stop (.reservedUop 3#6 0x0F#8) ∧ uopEvent 3#6 0xA0#8 = .stop (.reservedUop 3#6 0xA0#8) ∧
    uopEvent 3#6 0x1B#8 = .stop (.reservedUop 3#6 0x1B#8) ∧ uopEvent 3#6 0x2B#8 = .stop (.reservedUop 3#6 0x2B#8) ∧
    uopEvent 3#6 0x91#8 = .stop (.reservedUop 3#6 0x91#8) ∧ uopEvent 3#6 0x1A#8 = .run .microProgram (.kexp 10#4) ∧
    uopEvent 3#6 0x20#8 = .run .microProgram (.ark 0#4) ∧ 0x90#8 ∈ uprogEnc ∧
    nextEvent (running 0#1 0#6 0) = .run .microProgram (.kexp 1#4) := by decide

theorem test_witness_IllegalRoundIndexFaults :
    faultOf (exec (.kexp 11#4) State.reset) = some (.reservedUop 0#6 0x1B#8) ∧
    faultOf (exec (.kexp 15#4) State.reset) = some (.reservedUop 0#6 0x1F#8) ∧
    faultOf (exec (.ark 15#4) State.reset) = some (.reservedUop 0#6 0x2F#8) := by decide

theorem test_witness_EveryCommandWordDecodes :
    (BitVec.ofNat 257 (2 ^ 256)).getLsbD 256 = true ∧ (0#257).getLsbD 256 = false := by decide

theorem test_witness_FieldWordsDecode :
    (0x0ffff#18).extractLsb' 16 2 = 0b00#2 ∧ (0x10000#18).extractLsb' 16 2 = 0b01#2 ∧
    (0x2ffff#18).extractLsb' 16 2 = 0b10#2 ∧ (0x30000#18).extractLsb' 16 2 = 0b11#2 := by decide

/-- A reset leaves the word on the unit's inputs, still to be run. -/
theorem test_witness_FieldWordsDecode_kept :
    (nextOf (step { State.reset with rst := 1#1, gfIn := 5#18, gfRun := true })).map (fun t => (t.gfIn, t.gfRun)) =
      some (5#18, true) := by decide

theorem test_witness_PseudoInstructionsExpand :
    (pseudoRounds.map fun r => r.index.toNat) = [1, 2, 3, 4, 5, 6, 7, 8, 9] := by decide

theorem test_witness_StatusOutputsFollowTheState :
    instrFormat .sb = .uop ∧ (nextOf (exec .sb State.reset)).isSome = true ∧ State.reset.busy = 0#1 ∧
      State.reset.rst = 0#1 := by decide

theorem test_witness_ResponsePortShowsDout :
    answered.rspv = 1#1 ∧ (rspData answered).extractLsb' 120 8 = 0x69#8 ∧
      (rspData answered).extractLsb' 0 8 = 0x5a#8 := by decide

/-- y follows the inputs at once, whatever is run and at a reset too. -/
theorem test_witness_FieldOperationsCompleteWithTheirResultOnY :
    (gfY { State.reset with gfIn := 0x05783#18, rst := 1#1 }).toOption = some 0xd4#8 ∧
    (gfY { State.reset with gfIn := 0x15783#18 }).toOption = some 0xd4#8 ∧
    (gfY { State.reset with gfIn := 0x25783#18 }).toOption = some 0xc1#8 ∧
    (gfY { State.reset with gfIn := 0x3ffff#18 }).toOption = none := by decide

theorem test_witness_SboxIsTheAlgebraicPermutation :
    sbox 0x00#8 = 0x63#8 ∧ sbox 0x53#8 = 0xed#8 ∧ sbox 0xff#8 = 0x16#8 ∧ invSbox 0x16#8 = 0xff#8 ∧
      gmul 0x53#8 0xca#8 = 0x01#8 := by decide

theorem test_witness_RoundConstantsArePowersOfX :
    rcon 1 (by decide) = 0x01#8 ∧ rcon 9 (by decide) = 0x1B#8 ∧ rcon 10 (by decide) = 0x36#8 := by decide

theorem test_witness_MicroProgramsAreTheListedUops :
    uprogEnc[43]? = some 0x30#8 ∧ uprogEnc[46]? = some 0x29#8 ∧ uprogDec[11]? = some 0x60#8 ∧
      uprogDec[45]? = some 0x21#8 := by decide

theorem test_witness_SubBytesResult :
    (running 0#1 11#6 0x00102030405060708090a0b0c0d0e0f0).state = bytes 0x00102030405060708090a0b0c0d0e0f0 := rfl

theorem test_witness_InvSubBytesResult :
    (running 1#1 12#6 0x7a9f102789d5f50b2beffd9f3dca4ea7).state = bytes 0x7a9f102789d5f50b2beffd9f3dca4ea7 := rfl

theorem test_witness_MixColumnsResult :
    column (running 0#1 13#6 0xc6c6c6c6000000000100000001010101).state 0 = Vector.replicate 4 0xc6#8 ∧
    column (running 0#1 13#6 0xc6c6c6c6000000000100000001010101).state 2 = #v[1#8, 0#8, 0#8, 0#8] := by decide

theorem test_witness_InvMixColumnsResult :
    column (running 1#1 14#6 0xc6c6c6c6000000000100000001010101).state 1 = Vector.replicate 4 0#8 ∧
    column (running 1#1 14#6 0xc6c6c6c6000000000100000001010101).state 2 = #v[1#8, 0#8, 0#8, 0#8] := by decide

theorem test_witness_AddRoundKeyResult :
    ({ running 0#1 10#6 katKey with rk := State.reset.rk.set 10 (bytes katKey) } : State).state =
      ({ running 0#1 10#6 katKey with rk := State.reset.rk.set 10 (bytes katKey) } : State).rk[10] ∧
    ({ running 0#1 10#6 0x00112233445566778899aabbccddeeff with
        rk := State.reset.rk.set 0 (bytes katKey) } : State).rk[0] = bytes katKey := by decide

theorem test_witness_GFunctionResult :
    gFunction #v[0x0c#8, 0x0d#8, 0x0e#8, 0x0f#8] 1 (by decide) = #v[0xd6#8, 0xab#8, 0x76#8, 0xfe#8] ∧
    gFunction #v[0xb6#8, 0x63#8, 0x0c#8, 0xa6#8] 10 (by decide) = #v[0xcd#8, 0xfe#8, 0x24#8, 0x4e#8] := by decide

theorem test_witness_KeyExpansionStepResult :
    (1 ≤ 1 ∧ 1 ≤ 10) ∧ (1 ≤ 10 ∧ 10 ≤ 10) ∧ (nextOf (exec (.kexp 10#4) State.reset)).isSome = true := by decide

theorem test_witness_ScheduleAfterKeyExpansion : State.reset.busy = 0#1 ∧ State.reset.rst = 0#1 := by decide

/-- A step that is no accept: KEXP 1. -/
theorem test_witness_RoundKeyZeroIsTheKey :
    (nextOf (step (running 0#1 0#6 0))).isSome = true ∧ ¬ isAccept (nextEvent (running 0#1 0#6 0)) := by
  have h : nextEvent (running 0#1 0#6 0) = .run .microProgram (.kexp 1#4) := by decide
  refine ⟨by decide, ?_⟩
  rintro ⟨i, hi⟩
  rw [h] at hi
  cases hi

theorem test_witness_CommandsAreAcceptedWhenReady : answered.busy = 0#1 ∧ answered.rst = 0#1 := by decide

theorem test_witness_AcceptTakesTheCommandFromThePorts :
    (ready (presented katDecrypt) ∧ (presented katDecrypt).busy = 0#1 ∧ (presented katDecrypt).rst = 0#1 ∧
      (presented katDecrypt).cmd = some katDecrypt) ∧
    (ready (running 1#1 50#6 0) ∧ (running 1#1 50#6 0).busy = 1#1 ∧ (running 1#1 50#6 0).rst = 0#1 ∧
      (nextOf (step (running 1#1 50#6 0))).isSome = true) := by decide

theorem test_witness_CommandsWaitWhileRunning :
    (running 0#1 50#6 0).busy = 1#1 ∧ ready { running 0#1 50#6 0 with cmd := some katEncrypt } ∧
    ({ running 0#1 50#6 0 with cmd := some katEncrypt } : State).script.head? ≠ some .withdraw ∧
    ({ running 0#1 50#6 0 with cmd := some katEncrypt } : State).script.head? ≠ some .assertReset ∧
    (nextOf (step { running 0#1 50#6 0 with cmd := some katEncrypt })).isSome = true := by decide

theorem test_witness_FinishPresentsTheResult :
    nextEvent (running 1#1 50#6 0) = .run .microProgram .fin ∧ ControlInvariant answered ∧ answered.rspv = 1#1 ∧
    nextEvent answered = .idle ∧ (nextOf (step answered)).isSome = true := by decide

theorem test_witness_StepRunsTheDecodedInstruction :
    (ready (running 1#1 49#6 0) ∧ memRead (programOf 1#1) 49 = some 0x20#8 ∧
      decode (.uop 0x20#8) = .ok (.ark 0#4)) ∧
    (decode (.cmd (katEncrypt.op ++ katEncrypt.key ++ katEncrypt.data))).toBool = true ∧
    (({ State.reset with gfIn := 0x05783#18, gfRun := true } : State).gfRun = true ∧
      decode (.gf 0x05783#18) = .ok (.gfAdd 0x57#8 0x83#8)) := by decide

/-- The counter's clauses at 0, 49, 50 and 51. -/
theorem test_witness_MicroProgramCounterFollowsItsRule :
    (nextOf (step (running 0#1 0#6 0))).map (·.upc) = some 1#6 ∧
    (nextOf (step (running 0#1 49#6 0))).map (·.upc) = some 50#6 ∧
    (nextOf (step (running 0#1 50#6 0))).map (·.upc) = some 0#6 ∧
    faultOf (step (running 0#1 63#6 0)) = some (.upcOutOfRange 63#6) ∧
    nextEvent { running 0#1 9#6 0 with rst := 1#1 } = .reset := by decide

theorem test_witness_IdleCoreWaits :
    ready answered ∧ answered.rst = 0#1 ∧ answered.busy = 0#1 ∧ answered.cmd = none := by decide

theorem test_witness_CommandsComputeTheCipherInFiftyOneSteps :
    ready (presented katEncrypt) ∧ noResetAhead (presented katEncrypt) ∧ (presented katEncrypt).busy = 0#1 ∧
    (presented katEncrypt).cmd = some katEncrypt := by decide

theorem test_witness_ResponsesComeInAcceptOrder :
    ({ State.reset with script := [.present katEncrypt, .present katDecrypt] } : State).script =
      [katEncrypt, katDecrypt].map HostMove.present ∧ ready State.reset := by decide

theorem test_witness_ResponseDependsOnlyOnTheCommand :
    ready { answered with cmd := some katEncrypt } ∧ noResetAhead { answered with cmd := some katEncrypt } ∧
    ({ answered with cmd := some katEncrypt } : State) ≠ presented katEncrypt := by decide

theorem test_witness_ResetWinsAndClearsTheControlRegisters :
    ({ running 1#1 20#6 5 with rst := 1#1 } : State).rst = 1#1 ∧
    (nextOf (step { running 1#1 20#6 5 with rst := 1#1, script := [.releaseReset] })).map
      (fun t => (t.rst, t.upc, cmdReady t)) = some (0#1, 0#6, 1#1) := by decide

theorem test_witness_ResetKeepsTheDatapath :
    (nextOf (step { running 1#1 20#6 5 with rst := 1#1 })).map (·.state) = some (bytes 5) := by decide

/-- Program P4: a command is running at the reset, and another is pending. Nothing is observed before its accept. -/
def abandoned : State := { running 0#1 20#6 5 with rst := 1#1, cmd := some katEncrypt, script := [.releaseReset] }

theorem test_witness_AbandonedCommandHasNoResponse :
    abandoned.rst = 1#1 ∧ abandoned.busy = 1#1 ∧ observations 1 abandoned = [] ∧
    (nextOf (core.run 1 abandoned)).map (fun t => (t.rst, t.busy, t.rspv)) = some (0#1, 0#1, 0#1) ∧
    observations 3 abandoned = [.accepted katEncrypt] := by decide

theorem test_witness_EventsBeforeTheFirstResetFault :
    ({ State.reset with wasReset := false } : State).wasReset = false ∧
    faultOf (step { State.reset with wasReset := false }) = some .notReset := by decide

/-- The cases where the clauses meet: a word to be run and UPC out of range; fsel = 0b11 alone; neither. -/
theorem test_step_faults_at_the_borders :
    (nextOf (step { running 0#1 51#6 0 with gfIn := 0x05783#18, gfRun := true })).isSome = true ∧
    faultOf (step { running 0#1 51#6 0 with gfIn := 0x30000#18 }) = some (.reservedGfFunction 0b11#2) ∧
    faultOf (step { running 0#1 51#6 0 with gfIn := 0x2ffff#18 }) = some (.upcOutOfRange 51#6) := by decide

theorem test_witness_TheCoreNeverFaults :
    ready State.reset ∧ ControlInvariant State.reset ∧ ready (running 1#1 50#6 0) ∧
    ControlInvariant (running 1#1 50#6 0) := by decide

theorem test_witness_EveryStepKeepsTheControlInvariant :
    ControlInvariant (running 0#1 49#6 0) ∧ (nextOf (step (running 0#1 49#6 0))).isSome = true := by decide

/-- Before KEXP 1 the schedule invariant holds of the zero key, not trivially: the core is busy. -/
theorem test_witness_EveryStepKeepsTheScheduleInvariant :
    ScheduleInvariant (running 0#1 0#6 0) ∧ (running 0#1 0#6 0).busy = 1#1 ∧
    (nextOf (step (running 0#1 0#6 0))).isSome = true := by
  refine ⟨fun _ k hk => ?_, by decide, by decide⟩
  have h0 : k = 0 := Fin.ext (by simpa [running] using hk)
  subst h0
  decide

theorem test_witness_OnlyTheListedWritersWrite :
    (nextOf (step (running 0#1 11#6 0))).map (·.state[0]) = some 0x63#8 ∧
    nextEvent (running 0#1 11#6 0) = .run .microProgram .sb := by decide

theorem test_witness_PendingPayloadIsStable :
    (nextOf (step { running 0#1 11#6 0 with cmd := some katEncrypt, script := [.present katDecrypt] })).map (·.cmd) =
      some (some katEncrypt) := by decide

/-- Two cores, the first of which takes a step. -/
theorem test_witness_CoresAreIndependent :
    (match systemStep 0 ⟨[presented katEncrypt, State.reset]⟩ with
      | .next sys => sys.cores.map (·.busy)
      | .fault _ => []
      | .refused _ => []) = [1#1, 0#1] := by decide

end Sys2Proof.Tests
end

section
/-! SUPPORT. The state's registers and layout (10_state.md): what an event does to the control registers, once, and
what follows for the status outputs, UPC and the layout maps. -/

namespace Sys2Proof.Machine

open Sys2Proof.Claims

/-! ### The layout maps (R26 to R28) -/

theorem stateToBlock_blockToState (b : Block) : stateToBlock (blockToState b) = b := by
  ext i hi : 1
  simp only [stateToBlock_getElem, blockToState_getElem, Nat.mod_add_div]

theorem blockToState_stateToBlock (m : Matrix4) : blockToState (stateToBlock m) = m := by
  ext r hr c hc : 2
  have hrow : (r + 4 * c) % 4 = r := by omega
  have hcol : (r + 4 * c) / 4 = c := by omega
  simp only [blockToState_getElem, stateToBlock_getElem, hrow, hcol]

/-! ### What the micro-programs hold at each index (43_sequencer.md R197, R198) -/

/-- The two lists R31 selects from are the spaces `programOf` names. -/
theorem memRead_programOf (op : BitVec 1) (n : Nat) :
    memRead (programOf op) n = (if op = 0#1 then uprogEnc else uprogDec)[n]? := by
  unfold programOf
  split <;> rfl

theorem decodeUop_eq_fin_iff (u : BitVec 8) : decodeUop u = .ok .fin ↔ u = 0x90#8 := by
  revert u; decide

/-- Both micro-programs, index by index: the FIN word is the last one and no other. -/
theorem program_fin_word_index :
    ∀ (op : BitVec 1) (n : Fin 51), memRead (programOf op) n = some 0x90#8 ↔ n = 50 := by
  decide

/-- FIN stands at index 50 of each micro-program and nowhere else. -/
theorem program_entry_eq_fin_iff {op : BitVec 1} {n : Nat} {u : BitVec 8} {i : Instr}
    (hu : memRead (programOf op) n = some u) (hi : decodeUop u = .ok i) : i = .fin ↔ n = 50 := by
  have hn : n < 51 := by
    by_contra hn
    rw [(memRead_program_eq_none_iff op n).2 (by omega)] at hu
    cases hu
  have hfin := program_fin_word_index op ⟨n, hn⟩
  rw [hu, Option.some.injEq, ← decodeUop_eq_fin_iff, hi, Except.ok.injEq] at hfin
  exact hfin.trans Fin.ext_iff

/-! ### The event of a running core (43_sequencer.md R195) -/

theorem nextEvent_of_busy {s : State} (hs : ready s) (hr : s.rst = 0#1) (hb : s.busy = 1#1) :
    nextEvent s = fetchEvent s := by
  obtain ⟨hw, hg⟩ := hs
  simp [nextEvent, hr, hw, hg, hb]

theorem fetchEvent_of_some {s : State} {u : BitVec 8} (h : memRead (programOf s.op) s.upc.toNat = some u) :
    fetchEvent s = uopEvent s.upc u := by
  simp [fetchEvent, h]

theorem fetchEvent_of_none {s : State} (h : memRead (programOf s.op) s.upc.toNat = none) :
    fetchEvent s = .stop (.upcOutOfRange s.upc) := by
  simp [fetchEvent, h]

theorem uopEvent_of_ok {upc : BitVec 6} {u : BitVec 8} {i : Instr} (h : decodeUop u = .ok i) :
    uopEvent upc u = .run .microProgram i := by
  simp [uopEvent, h]

/-- A uop that runs stands at an index the micro-program has, and is FIN exactly at index 50. -/
theorem upc_of_run_microProgram {s : State} {i : Instr} (h : nextEvent s = .run .microProgram i) :
    s.upc.toNat ≤ 50 ∧ (i = .fin ↔ s.upc.toNat = 50) := by
  obtain ⟨-, -, ⟨hsrc, -⟩ | ⟨-, -, -, u, hu, hi⟩ | ⟨hsrc, -⟩⟩ := nextEvent_run_cases s _ i h
  · cases hsrc
  · have hread : ¬ 50 < s.upc.toNat := by
      rw [← memRead_program_eq_none_iff s.op, hu]; simp
    exact ⟨by omega, program_entry_eq_fin_iff hu hi⟩
  · cases hsrc

/-- A running core at an index the micro-program has runs a uop next. -/
theorem exists_run_of_busy {s : State} (hs : ready s) (hr : s.rst = 0#1) (hb : s.busy = 1#1)
    (hupc : s.upc.toNat ≤ 50) : ∃ i, nextEvent s = .run .microProgram i := by
  obtain ⟨u, hu⟩ := Option.ne_none_iff_exists'.1
    (fun h => absurd ((memRead_program_eq_none_iff s.op s.upc.toNat).1 h) (by omega))
  obtain ⟨i, hi⟩ := program_entry_decodes _ _ u hu
  exact ⟨i, by rw [nextEvent_of_busy hs hr hb, fetchEvent_of_some hu, uopEvent_of_ok hi]⟩

/-! ### What a uop and a step do to the control registers (10_state.md R35, R38) -/

/-- A uop other than FIN leaves the flags, OP and DOUT alone and adds 1 to UPC. -/
theorem exec_uop_control {i : Instr} {s t : State} (hf : instrFormat i = .uop) (hne : i ≠ .fin)
    (h : exec i s = .next t) :
    t.op = s.op ∧ t.busy = s.busy ∧ t.rspv = s.rspv ∧ t.dout = s.dout ∧ t.upc = s.upc + 1#6 := by
  obtain ⟨rfl, -⟩ | ⟨k, hk, -, rfl⟩ | ⟨-, -, b, rfl⟩ := exec_uop_next i s t hf h
  · exact absurd rfl hne
  · simp
  · simp

/-- What a step that goes on has done, one constructor per event (43_sequencer.md R190), with the conditions of the
event and the state after it in terms of the named updates. `stepEffect_of_step` ties it to `step`. -/
inductive StepEffect (s : State) : State → Prop where
  | reset (he : nextEvent s = .reset) : StepEffect s (endEvent (resetEvent s))
  | idle (he : nextEvent s = .idle) : StepEffect s (endEvent s)
  | accept (c : Command) (he : nextEvent s = .run .commandPort (decodeCmd (commandWord c))) (hc : s.cmd = some c)
      (hb : s.busy = 0#1) (hr : s.rst = 0#1) :
      StepEffect s (endEvent (retire .commandPort (accept (cmdOpOf (commandWord c)) (cmdKeyOf (commandWord c))
        (cmdDataOf (commandWord c)) s)))
  | uop (i : Instr) (u : State) (he : nextEvent s = .run .microProgram i) (hf : instrFormat i = .uop)
      (hb : s.busy = 1#1) (hx : exec i s = .next u) : StepEffect s (endEvent u)
  | field (i : Instr) (fsel : BitVec 2) (a b : Byte) (he : nextEvent s = .run .fieldUnit i) :
      StepEffect s (endEvent (retire .fieldUnit (driveGf fsel a b s)))

/-- Every step that goes on is one of the listed effects. -/
theorem stepEffect_of_step {s t : State} (h : step s = .next t) : StepEffect s t := by
  obtain ⟨he, rfl⟩ | ⟨he, rfl⟩ | ⟨src, i, u, he, hx, rfl⟩ := step_next_cases s t h
  · exact .reset he
  · exact .idle he
  · have hf := instrFormat_of_run s src i he
    obtain ⟨hr, -, ⟨rfl, -⟩ | ⟨rfl, -, hb, -⟩ | ⟨rfl, -, hb, c, hc, rfl⟩⟩ := nextEvent_run_cases s src i he
    · obtain ⟨fsel, a, b, rfl, -⟩ := exec_gf_next i s u hf hx
      exact .field i fsel a b he
    · exact .uop i u he hf hb hx
    · rw [exec_cmd_next (commandWord c) s hb hr] at hx
      cases hx
      exact .accept c he hc hb hr

/-! ### UPC (10_state.md R31) -/

/-- Adding 1 to an index below 50 does not wrap. -/
theorem toNat_upc_succ {u : BitVec 6} (h : u.toNat < 50) : (u + 1#6).toNat = u.toNat + 1 := by
  bv_omega

/-- The step of a uop below index 50 goes to the next index and stays busy. -/
theorem step_of_busy_below_fin {s : State} (hs : ready s) (hr : s.rst = 0#1) (hb : s.busy = 1#1)
    (hupc : s.upc.toNat < 50) : ∃ t, step s = .next t ∧ t.upc.toNat = s.upc.toNat + 1 ∧ t.busy = 1#1 := by
  obtain ⟨i, he⟩ := exists_run_of_busy hs hr hb hupc.le
  obtain ⟨t, hx⟩ := exec_of_wellFormed i s (wellFormed_of_run s _ i he)
  have hne : i ≠ .fin := fun hi => hupc.ne ((upc_of_run_microProgram he).2.1 hi)
  obtain ⟨-, hbusy, -, -, hadv⟩ := exec_uop_control (instrFormat_of_run s _ i he) hne hx
  refine ⟨endEvent t, ?_, ?_, ?_⟩
  · rw [step_of_run s _ i he, hx, mapNext_next, retire_microProgram]
  · rw [endEvent_upc, hadv, toNat_upc_succ hupc]
  · rw [endEvent_busy, hbusy, hb]

/-- A running core at index 50 runs FIN. -/
theorem nextEvent_of_busy_at_fin {s : State} (hs : ready s) (hr : s.rst = 0#1) (hb : s.busy = 1#1)
    (hupc : s.upc.toNat = 50) : nextEvent s = .run .microProgram .fin := by
  obtain ⟨i, he⟩ := exists_run_of_busy hs hr hb hupc.le
  obtain rfl : i = .fin := (upc_of_run_microProgram he).2.2 hupc
  exact he

theorem step_of_run_fin {s : State} (he : nextEvent s = .run .microProgram .fin) :
    step s = .next (endEvent (finish s)) :=
  step_of_run s _ _ he

/-- A running core above index 50 has no uop to run. -/
theorem step_of_busy_above_fin {s : State} (hs : ready s) (hr : s.rst = 0#1) (hb : s.busy = 1#1)
    (hupc : 50 < s.upc.toNat) : step s = .fault (.upcOutOfRange s.upc) := by
  apply step_of_stop
  rw [nextEvent_of_busy hs hr hb, fetchEvent_of_none ((memRead_program_eq_none_iff _ _).2 hupc)]

theorem upc_after_accept_or_reset {s t : State} (h : step s = .next t)
    (he : isAccept (nextEvent s) ∨ nextEvent s = .reset) : t.upc = 0#6 := by
  cases stepEffect_of_step h with
  | reset => simp
  | accept => simp
  | idle hn => simp [isAccept, hn] at he
  | uop i u hn => simp [isAccept, hn] at he
  | field i fsel a b hn => simp [isAccept, hn] at he

/-- 10_state.md R40 (c): every step keeps UPC at most 50. -/
theorem step_keeps_upcInRange {s t : State} (hs : upcInRange s) (h : step s = .next t) : upcInRange t := by
  cases stepEffect_of_step h with
  | reset => simp [upcInRange]
  | idle => simpa [upcInRange] using hs
  | accept => simp [upcInRange]
  | field => simpa [upcInRange] using hs
  | uop i u he hf _ hx =>
    obtain ⟨hle, hfin⟩ := upc_of_run_microProgram he
    by_cases hi : i = .fin
    · subst hi
      cases hx
      simp [upcInRange]
    · have hlt : s.upc.toNat < 50 := by have := mt hfin.2 hi; omega
      obtain ⟨-, -, -, -, hadv⟩ := exec_uop_control hf hi hx
      rw [upcInRange, endEvent_upc, hadv, toNat_upc_succ hlt]
      omega

/-- A predicate that every step keeps holds after a run of any length. -/
theorem core_run_keeps {P : State → Prop} (hstep : ∀ s t, P s → step s = .next t → P t) {n : Nat} {s t : State}
    (hs : P s) (h : core.run n s = .next t) : P t := by
  induction n generalizing s with
  | zero => cases h; exact hs
  | succ n ih =>
    rw [core_run_succ] at h
    cases hst : step s with
    | next u => rw [hst] at h; exact ih (hstep s u hs hst) h
    | fault f => rw [hst] at h; cases h
    | refused r => rw [hst] at h; cases h

end Sys2Proof.Machine

namespace Sys2Proof.Proofs

open Sys2Proof.Machine Sys2Proof.Claims

/-- Settles O40: R31 clause by clause; that no run passes index 50 is the invariant R40 (c) along the run. -/
theorem microProgramCounterFollowsItsRule : Obligations.MicroProgramCounterFollowsItsRule := by
  unfold Obligations.MicroProgramCounterFollowsItsRule
  refine ⟨fun s hs hr hb => ⟨fun u hu => ?_, step_of_busy_below_fin hs hr hb, fun hupc => ?_,
    step_of_busy_above_fin hs hr hb⟩, fun _ _ => upc_after_accept_or_reset, fun moves n t hrun => ?_⟩
  · rw [nextEvent_of_busy hs hr hb, fetchEvent_of_some (by rw [memRead_programOf, hu])]
  · have he := nextEvent_of_busy_at_fin hs hr hb hupc
    exact ⟨he, _, step_of_run_fin he, by simp, by simp⟩
  · have hstart : upcInRange { State.reset with script := moves } := by simp [upcInRange, State.reset]
    exact core_run_keeps (fun _ _ => step_keeps_upcInRange) hstart hrun

/-- Settles O11: the outputs read their registers; among operations, FIN and the accept of a command alone write
BUSY and RSPV. -/
theorem statusOutputsFollowTheState : Obligations.StatusOutputsFollowTheState := by
  unfold Obligations.StatusOutputsFollowTheState
  refine ⟨fun s => ⟨rfl, cmdReady_eq_one_iff s, rfl⟩, fun s t i hf hne hx => ?_,
    fun s => ⟨finish s, rfl, finish_rspv s, finish_busy s⟩, fun s K D hb hr => ⟨?_, ?_⟩⟩
  · obtain ⟨-, hbusy, hrspv, -⟩ := exec_uop_control hf hne hx
    exact ⟨hbusy, hrspv⟩
  · exact ⟨_, command_of_ready 0#1 K D s hb hr, accept_busy .., accept_rspv ..⟩
  · exact ⟨_, command_of_ready 1#1 K D s hb hr, accept_busy .., accept_rspv ..⟩

/-- Settles O10: both maps byte by byte, then each undoing the other by index arithmetic modulo 4. -/
theorem layoutMapsAreInverse : Obligations.LayoutMapsAreInverse := by
  unfold Obligations.LayoutMapsAreInverse
  refine ⟨fun b r c => ?_, fun m i => ?_, stateToBlock_blockToState, blockToState_stateToBlock⟩
  · exact blockToState_getElem b r c r.isLt c.isLt
  · exact stateToBlock_getElem m i i.isLt

/-- Settles O47: the reset state is written out register by register, and the outputs follow. -/
theorem resetStateIsIdle : Obligations.ResetStateIsIdle := by
  unfold Obligations.ResetStateIsIdle
  exact ⟨rfl, rfl, rfl, rfl, rfl, rfl, (cmdReady_eq_one_iff State.reset).2 ⟨rfl, rfl⟩⟩

end Sys2Proof.Proofs
end

section
/-! SUPPORT. The encodings (30_encoding.md R81 to R94): which uops the decoder refuses, the words the sequencer can
fetch, the fields of a command word, and the words of the pseudo-instructions. -/

namespace Sys2Proof.Machine

/-! ### The fields of a uop and the reserved ones (R84 to R87) -/

theorem uopOpc_toNat (u : BitVec 8) : (uopOpc u).toNat = u.toNat / 16 := by
  have hu := u.isLt
  simp only [uopOpc, BitVec.extractLsb'_toNat, Nat.shiftRight_eq_div_pow]
  omega

theorem uopK_toNat (u : BitVec 8) : (uopK u).toNat = u.toNat % 16 := by
  simp [uopK, BitVec.extractLsb'_toNat]

/-- A uop without a round index is refused exactly when its k is not 0 (R86). -/
theorem decodePlain_eq_error_iff (u : BitVec 8) (i : Instr) (e : Reject) :
    decodePlain u i = .error e ↔ .reservedUop u = e ∧ u.toNat % 16 ≠ 0 := by
  have hk : uopK u = 0#4 ↔ u.toNat % 16 = 0 := by
    rw [← BitVec.toNat_inj, uopK_toNat, BitVec.toNat_ofNat, Nat.zero_mod]
  unfold decodePlain
  split <;> simp_all

/-- The decoder refuses exactly the four groups of R87, opcode by opcode, each uop with its own byte. -/
theorem decodeUop_eq_error_iff (u : BitVec 8) (e : Reject) : decodeUop u = .error e ↔ .reservedUop u = e ∧
    ((u.toNat / 16 = 0 ∨ 10 ≤ u.toNat / 16) ∨
     (u.toNat / 16 = 1 ∧ (u.toNat % 16 = 0 ∨ 10 < u.toNat % 16)) ∨
     (u.toNat / 16 = 2 ∧ 10 < u.toNat % 16) ∨
     (3 ≤ u.toNat / 16 ∧ u.toNat / 16 ≤ 9 ∧ u.toNat % 16 ≠ 0)) := by
  unfold decodeUop
  rw [uopOpc_toNat, uopK_toNat]
  split
  -- KEXP and ARK have their own index ranges, and the last case has no opcode; the others are plain.
  case h_1 | h_2 | h_10 => grind
  all_goals
    rw [decodePlain_eq_error_iff]
    exact and_congr_right fun _ => by omega

/-- The event of a uop is the fault ReservedUop exactly when the decoder refuses it. -/
theorem uopEvent_eq_stop_iff (upc : BitVec 6) (u : BitVec 8) :
    uopEvent upc u = .stop (.reservedUop upc u) ↔ decodeUop u = .error (.reservedUop u) := by
  unfold uopEvent
  cases hd : decodeUop u with
  | ok i => simp
  | error e =>
    obtain ⟨rfl, -⟩ := (decodeUop_eq_error_iff u e).1 hd
    simp

/-! ### What the sequencer can fetch (R87; 43_sequencer.md R195) -/

/-- The bytes of the micro-programs are those that stand at an address of one of them. -/
theorem mem_microProgram_iff (u : BitVec 8) :
    u ∈ uprogEnc ∨ u ∈ uprogDec ↔ ∃ op n, memRead (programOf op) n = some u := by
  simp only [memRead_programOf, List.mem_iff_getElem?]
  constructor
  · rintro (⟨n, hn⟩ | ⟨n, hn⟩)
    · exact ⟨0#1, n, hn⟩
    · exact ⟨1#1, n, hn⟩
  · rintro ⟨op, n, hn⟩
    split at hn
    · exact .inl ⟨n, hn⟩
    · exact .inr ⟨n, hn⟩

/-- A uop that runs was fetched from a micro-program. -/
theorem exists_mem_of_run_microProgram {s : State} {i : Instr} (h : nextEvent s = .run .microProgram i) :
    ∃ u : BitVec 8, (u ∈ uprogEnc ∨ u ∈ uprogDec) ∧ decodeUop u = .ok i := by
  obtain ⟨-, -, ⟨hsrc, -⟩ | ⟨-, -, -, u, hu, hi⟩ | ⟨hsrc, -⟩⟩ := nextEvent_run_cases s _ i h
  · cases hsrc
  · exact ⟨u, (mem_microProgram_iff u).2 ⟨_, _, hu⟩, hi⟩
  · cases hsrc

/-! ### The fields of a command word (R81 to R83) -/

theorem cmdOpOf_eq_one_iff (w : BitVec 257) : cmdOpOf w = 1#1 ↔ w.getLsbD 256 = true := by
  simp [cmdOpOf, BitVec.eq_of_getLsbD_eq_iff]

/-- A field of a field is a field of the word, further up by the place of the outer one. -/
theorem extractLsb'_extractLsb'_of_add_le {w start len start' len' : Nat} (x : BitVec w) (h : start + len ≤ len') :
    (x.extractLsb' start' len').extractLsb' start len = x.extractLsb' (start' + start) len := by
  ext i hi
  have hi' : start + i < len' := by omega
  simp [hi', Nat.add_assoc]

theorem cmdKeyOf_getElem (w : BitVec 257) (i : Nat) (h : i < 16) :
    (cmdKeyOf w)[i] = w.extractLsb' (248 - 8 * i) 8 := by
  have hplace : 128 + (120 - 8 * i) = 248 - 8 * i := by omega
  rw [cmdKeyOf, bytes_getElem, extractLsb'_extractLsb'_of_add_le _ (by omega), hplace]

theorem cmdDataOf_getElem (w : BitVec 257) (i : Nat) (h : i < 16) :
    (cmdDataOf w)[i] = w.extractLsb' (120 - 8 * i) 8 := by
  rw [cmdDataOf, bytes_getElem, BitVec.extractLsb'_extractLsb'_of_le (by omega)]

theorem decode_cmd (w : BitVec 257) : decode (.cmd w) =
    .ok (if cmdOpOf w = 1#1 then .decrypt (cmdKeyOf w) (cmdDataOf w)
      else .encrypt (cmdKeyOf w) (cmdDataOf w)) := by
  obtain ⟨hop, hd⟩ | ⟨hop, hd⟩ := decodeCmd_cases w <;> simp [decode, hd, hop]

@[simp] theorem cmdOpOf_cmdWord (op : BitVec 1) (key data : BitVec 128) : cmdOpOf (cmdWord op key data) = op := by
  simp only [cmdOpOf, cmdWord]
  rw [BitVec.extractLsb'_append_eq_of_le (by decide), BitVec.extractLsb'_append_eq_of_le (by decide)]
  exact BitVec.extractLsb'_eq_self

@[simp] theorem cmdKeyOf_cmdWord (op : BitVec 1) (key data : BitVec 128) :
    cmdKeyOf (cmdWord op key data) = bytes key := by
  simp only [cmdKeyOf, cmdWord]
  rw [BitVec.extractLsb'_append_eq_of_le le_rfl, BitVec.extractLsb'_append_eq_right]

@[simp] theorem cmdDataOf_cmdWord (op : BitVec 1) (key data : BitVec 128) :
    cmdDataOf (cmdWord op key data) = bytes data := by
  simp only [cmdDataOf, cmdWord]
  rw [BitVec.extractLsb'_append_eq_right]

/-! ### The words of the pseudo-instructions (R94) -/

/-- The word of ARK k is 0x20 + k (R85, R92). -/
theorem encode_ark (k : BitVec 4) : encode (.ark k) = .uop (BitVec.ofNat 8 (0x20 + k.toNat)) := by
  revert k; decide

end Sys2Proof.Machine

namespace Sys2Proof.Proofs

open Sys2Proof.Machine

/-- Settles O4: the decoder refuses the four groups of R87, and what the sequencer fetches stands in a
micro-program, where every byte decodes. -/
theorem reservedUopsAreTheListedOnes : Obligations.ReservedUopsAreTheListedOnes := by
  unfold Obligations.ReservedUopsAreTheListedOnes
  refine ⟨fun u upc => ?_, fun u hu => ?_, fun _ _ => exists_mem_of_run_microProgram⟩
  · rw [uopEvent_eq_stop_iff, decodeUop_eq_error_iff, eq_self, true_and]
  · obtain ⟨op, n, hn⟩ := (mem_microProgram_iff u).1 hu
    exact program_entry_decodes op n u hn

/-- Settles O6: the operands of a word are its key and data fields, byte by byte; the word of the ports has the
ports as its fields. -/
theorem everyCommandWordDecodes : Obligations.EveryCommandWordDecodes := by
  unfold Obligations.EveryCommandWordDecodes
  refine ⟨fun w => ⟨cmdKeyOf w, cmdDataOf w, ?_, fun i => ?_⟩, fun c => ⟨bytes c.key, bytes c.data, ?_, fun i => ?_⟩⟩
  · simp only [decode_cmd, cmdOpOf_eq_one_iff]
  · exact ⟨cmdKeyOf_getElem w i i.isLt, cmdDataOf_getElem w i i.isLt⟩
  · have h := decode_cmd (cmdWord c.op c.key c.data)
    rwa [cmdOpOf_cmdWord, cmdKeyOf_cmdWord, cmdDataOf_cmdWord] at h
  · exact ⟨bytes_getElem c.key i i.isLt, bytes_getElem c.data i i.isLt⟩

/-- Settles O8: the table row by row; the round r enters only in the word of ARK r. -/
theorem pseudoInstructionsExpand : Obligations.PseudoInstructionsExpand := by
  unfold Obligations.PseudoInstructionsExpand
  refine ⟨rfl, fun r h => ?_, rfl, rfl, fun p => ?_⟩
  · simp only [expand, List.map_cons, List.map_nil, encode_ark]
    exact ⟨rfl, rfl⟩
  · cases p with
    | kexpand => exact .inl rfl
    | encFinal => exact .inr (.inl rfl)
    | decFinal => exact .inr (.inr (.inl rfl))
    | encRound r => exact .inr (.inr (.inr ⟨r.index, r.legal, .inl rfl⟩))
    | decRound r => exact .inr (.inr (.inr ⟨r.index, r.legal, .inr rfl⟩))

end Sys2Proof.Proofs
end

section
/-! SUPPORT. The field unit (40_field_arithmetic.md R111 to R114): its answer for each function select, the bits of
the carry-less product, and the reduction one bit at a time, with what is left and what was added. -/

namespace Sys2Proof.Machine

/-! ### The unit's answer for each function select (R111) -/

@[simp] theorem gfUnit_add (a b : Byte) : gfUnit 0b00#2 a b = .ok (a ^^^ b) := rfl
@[simp] theorem gfUnit_sub (a b : Byte) : gfUnit 0b01#2 a b = .ok (a ^^^ b) := rfl
@[simp] theorem gfUnit_mul (a b : Byte) : gfUnit 0b10#2 a b = .ok (gmul a b) := rfl

/-! ### The carry-less product (R114, step 1) -/

/-- A byte shifted left by at most 8 loses no bit in 16 bits, so the equation holds at every `n`. -/
theorem getLsbD_setWidth_shiftLeft (a : Byte) {i : Nat} (hi : i ≤ 8) (n : Nat) :
    (a.setWidth 16 <<< i).getLsbD n = (decide (i ≤ n) && a.getLsbD (n - i)) := by
  by_cases hn : n < 16
  · rw [BitVec.getLsbD_shiftLeft, BitVec.getLsbD_setWidth]
    grind
  · have hni : 8 ≤ n - i := by omega
    simp [hn, BitVec.getLsbD_of_ge a _ hni]

/-- Each bit of a sum of shifts of `a` is the parity of the bits that fall on it. -/
theorem getLsbD_foldl_xor_shiftLeft (a b : Byte) (n : Nat) (l : List Nat) (hl : ∀ i ∈ l, i ≤ 8) (acc : BitVec 16) :
    (l.foldl (fun acc i => if b.getLsbD i then acc ^^^ (a.setWidth 16 <<< i) else acc) acc).getLsbD n =
      l.foldl (fun p i => p ^^ (b.getLsbD i && (decide (i ≤ n) && a.getLsbD (n - i)))) (acc.getLsbD n) := by
  induction l generalizing acc with
  | nil => rfl
  | cons i l ih =>
    obtain ⟨hi, hl⟩ := List.forall_mem_cons.1 hl
    rw [List.foldl_cons, List.foldl_cons, ih hl, ← getLsbD_setWidth_shiftLeft a hi n]
    cases b.getLsbD i <;> simp

theorem getLsbD_carrylessProduct (a b : Byte) (n : Nat) : (carrylessProduct a b).getLsbD n =
    (List.range 8).foldl (fun p i => p ^^ (b.getLsbD i && (decide (i ≤ n) && a.getLsbD (n - i)))) false := by
  rw [← BitVec.getLsbD_zero (w := 16) (i := n)]
  exact getLsbD_foldl_xor_shiftLeft a b n (List.range 8) (fun i hi => (List.mem_range.1 hi).le) 0#16

/-- Bit 14 is the highest that two bytes can reach. -/
theorem getLsbD_carrylessProduct_of_ge (a b : Byte) {n : Nat} (hn : 15 ≤ n) :
    (carrylessProduct a b).getLsbD n = false := by
  have hterm : ∀ p, ∀ i ∈ List.range 8,
      (p ^^ (b.getLsbD i && (decide (i ≤ n) && a.getLsbD (n - i)))) = p := fun p i hi => by
    have hi' : i < 8 := List.mem_range.1 hi
    simp [BitVec.getLsbD_of_ge a (n - i) (by omega)]
  rw [getLsbD_carrylessProduct, List.foldl_ext _ (fun p _ => p) _ hterm, List.foldl_fixed]

@[simp] theorem carrylessProduct_zero_right (a : Byte) : carrylessProduct a 0#8 = 0#16 := by
  simp [carrylessProduct]

@[simp] theorem carrylessProduct_zero_left (a : Byte) : carrylessProduct 0#8 a = 0#16 := by
  simp [carrylessProduct]

@[simp] theorem carrylessProduct_one_right (a : Byte) : carrylessProduct a 1#8 = a.setWidth 16 := by
  simp [carrylessProduct]

/-- A sum with one term that is not 0. -/
theorem foldl_range_xor_and_eq (f : Nat → Bool) (n k : Nat) :
    (List.range k).foldl (fun p i => p ^^ (f i && decide (i = n))) false = (decide (n < k) && f n) := by
  induction k with
  | zero => rfl
  | succ k ih =>
    rw [List.range_succ, List.foldl_concat, ih]
    grind

@[simp] theorem carrylessProduct_one_left (a : Byte) : carrylessProduct 1#8 a = a.setWidth 16 := by
  refine BitVec.eq_of_getLsbD_eq fun n hn => ?_
  have hone : ∀ i, (decide (i ≤ n) && (1#8).getLsbD (n - i)) = decide (i = n) := fun i => by
    rw [BitVec.getLsbD_one]
    grind
  simp only [getLsbD_carrylessProduct, hone, foldl_range_xor_and_eq]
  grind

/-! ### The reduction, from the highest bit down (R114, step 2) -/

/-- One turn of the reduction, at bit 8 + k. -/
def reduceBit (k : Nat) (acc : BitVec 16) : BitVec 16 :=
  if acc.getLsbD (8 + k) then acc ^^^ (0x11B#16 <<< k) else acc

/-- The turns at the k bits from 8 + (k - 1) down to 8. -/
def reduceBits : Nat → BitVec 16 → BitVec 16
  | 0, acc => acc
  | k + 1, acc => reduceBits k (reduceBit k acc)

theorem reduce_eq_reduceBits (acc : BitVec 16) : reduce acc = reduceBits 7 acc := rfl

/-- The sum of the shifts of the reduction polynomial that `q` selects: the product of `q` and 0x11B. -/
def reductionMultiple {k : Nat} (q : BitVec k) : BitVec 16 :=
  (List.range k).foldl (fun p j => if q.getLsbD j then p ^^^ (0x11B#16 <<< j) else p) 0#16

theorem reductionMultiple_cons {k : Nat} (c : Bool) (q : BitVec k) :
    reductionMultiple (q.cons c) = reductionMultiple q ^^^ if c then 0x11B#16 <<< k else 0#16 := by
  have hlow : ∀ p : BitVec 16, ∀ j ∈ List.range k,
      (if (q.cons c).getLsbD j then p ^^^ (0x11B#16 <<< j) else p) =
        if q.getLsbD j then p ^^^ (0x11B#16 <<< j) else p := fun p j hj => by
    rw [BitVec.getLsbD_cons, if_neg (List.mem_range.1 hj).ne]
  unfold reductionMultiple
  rw [List.range_succ, List.foldl_concat, List.foldl_ext _ _ _ hlow, BitVec.getLsbD_cons, if_pos rfl]
  cases c <;> simp

/-- What the turns add is a multiple of the reduction polynomial: each turn's bit is the next digit of the
quotient. -/
theorem exists_xor_reduceBits_eq (k : Nat) (acc : BitVec 16) :
    ∃ q : BitVec k, acc ^^^ reduceBits k acc = reductionMultiple q := by
  induction k generalizing acc with
  | zero => exact ⟨0#0, BitVec.xor_self⟩
  | succ k ih =>
    obtain ⟨q, hq⟩ := ih (reduceBit k acc)
    refine ⟨q.cons (acc.getLsbD (8 + k)), ?_⟩
    rw [reductionMultiple_cons, ← hq, reduceBits, reduceBit]
    grind

/-- The top bit of the shifted polynomial is bit 8 + k. -/
theorem getLsbD_polynomial_shiftLeft {k n : Nat} (hkn : 8 + k ≤ n) (hn : n < 16) :
    (0x11B#16 <<< k).getLsbD n = decide (n = 8 + k) := by
  have htop : ∀ m : Fin 16, 8 ≤ m.val → (0x11B#16).getLsbD m = decide (m.val = 8) := by decide
  rw [BitVec.getLsbD_shiftLeft, htop ⟨n - k, by omega⟩ (Nat.le_sub_of_add_le hkn)]
  grind

/-- A turn clears its bit and sets none above it. -/
theorem reduceBit_clears {k : Nat} {acc : BitVec 16} (h : ∀ n, 8 + (k + 1) ≤ n → acc.getLsbD n = false) :
    ∀ n, 8 + k ≤ n → (reduceBit k acc).getLsbD n = false := by
  intro n hkn
  by_cases hn : n < 16
  · have hpoly := getLsbD_polynomial_shiftLeft hkn hn
    unfold reduceBit
    obtain rfl | hlt := hkn.eq_or_lt
    · cases hbit : acc.getLsbD (8 + k) <;> simp [hbit, hpoly]
    · have hacc : acc.getLsbD n = false := h n hlt
      split <;> simp [hacc, hpoly, hlt.ne']
  · exact BitVec.getLsbD_of_ge _ _ (by omega)

/-- After the turns nothing is left above the low byte. -/
theorem getLsbD_reduceBits_of_ge {k : Nat} {acc : BitVec 16} (h : ∀ n, 8 + k ≤ n → acc.getLsbD n = false) :
    ∀ n, 8 ≤ n → (reduceBits k acc).getLsbD n = false := by
  induction k generalizing acc with
  | zero => exact h
  | succ k ih => exact ih (reduceBit_clears h)

/-- A value of one byte is its own remainder. -/
theorem reduceBits_of_high_zero (k : Nat) {acc : BitVec 16} (h : ∀ n, 8 ≤ n → acc.getLsbD n = false) :
    reduceBits k acc = acc := by
  induction k with
  | zero => rfl
  | succ k ih => simpa [reduceBits, reduceBit, h (8 + k) (by omega)] using ih

@[simp] theorem reduce_setWidth (a : Byte) : reduce (a.setWidth 16) = a.setWidth 16 := by
  rw [reduce_eq_reduceBits]
  exact reduceBits_of_high_zero 7 fun n hn => by simp [BitVec.getLsbD_of_ge a n hn]

/-! ### The product (R114) -/

/-- The reduced accumulator of two bytes fits a byte. -/
theorem getLsbD_reduce_carrylessProduct_of_ge (a b : Byte) {n : Nat} (hn : 8 ≤ n) :
    (reduce (carrylessProduct a b)).getLsbD n = false := by
  rw [reduce_eq_reduceBits]
  exact getLsbD_reduceBits_of_ge (fun _ hm => getLsbD_carrylessProduct_of_ge a b hm) n hn

/-- So taking its low byte loses nothing. -/
theorem setWidth_gmul (a b : Byte) : (gmul a b).setWidth 16 = reduce (carrylessProduct a b) := by
  refine BitVec.eq_of_getLsbD_eq fun n hn => ?_
  have hhigh := getLsbD_reduce_carrylessProduct_of_ge a b (n := n)
  simp only [gmul, BitVec.getLsbD_setWidth, hn, decide_true, Bool.true_and]
  grind

theorem extractLsb'_reduce_carrylessProduct (a b : Byte) :
    (reduce (carrylessProduct a b)).extractLsb' 8 8 = 0#8 := by
  refine BitVec.eq_of_getLsbD_eq fun n _ => ?_
  simp [getLsbD_reduce_carrylessProduct_of_ge a b (Nat.le_add_right 8 n)]

/-- The accumulator and the product differ by a multiple of the reduction polynomial. -/
theorem exists_carrylessProduct_xor_gmul_eq (a b : Byte) :
    ∃ q : BitVec 7, carrylessProduct a b ^^^ (gmul a b).setWidth 16 = reductionMultiple q := by
  rw [setWidth_gmul, reduce_eq_reduceBits]
  exact exists_xor_reduceBits_eq 7 _

@[simp] theorem gmul_zero_right (a : Byte) : gmul a 0#8 = 0#8 := by
  rw [gmul, carrylessProduct_zero_right]
  rfl

@[simp] theorem gmul_zero_left (a : Byte) : gmul 0#8 a = 0#8 := by
  rw [gmul, carrylessProduct_zero_left]
  rfl

@[simp] theorem gmul_one_right (a : Byte) : gmul a 1#8 = a := by simp [gmul]

@[simp] theorem gmul_one_left (a : Byte) : gmul 1#8 a = a := by simp [gmul]

end Sys2Proof.Machine

namespace Sys2Proof.Proofs

open Sys2Proof.Machine

/-- Settles O14: the bits of the accumulator, then the reduction as a division, one quotient digit per turn. -/
theorem fieldMultiplicationIsTheRemainder : Obligations.FieldMultiplicationIsTheRemainder := by
  unfold Obligations.FieldMultiplicationIsTheRemainder
  refine ⟨fun a b => ⟨rfl, getLsbD_carrylessProduct a b, getLsbD_carrylessProduct_of_ge a b le_rfl,
    exists_carrylessProduct_xor_gmul_eq a b, extractLsb'_reduce_carrylessProduct a b, gfUnit_mul a b,
    gmul_zero_right a, gmul_zero_left a, gmul_one_right a, gmul_one_left a⟩, ?_⟩
  decide

/-- Settles O13: the unit answers the exclusive or for both selects, and the corner cases are its laws. -/
theorem fieldAdditionAndSubtractionAreXor : Obligations.FieldAdditionAndSubtractionAreXor := by
  unfold Obligations.FieldAdditionAndSubtractionAreXor
  refine ⟨fun a b => ⟨rfl, gfUnit_add a b, ?_, ?_⟩, rfl, fun a b => ⟨rfl, gfUnit_sub a b, ?_, ?_⟩, rfl⟩
  · rw [gfUnit_add, BitVec.xor_self]
  · rw [gfUnit_add, BitVec.xor_zero]
  · rw [gfUnit_sub, BitVec.xor_self]
  · rw [gfUnit_sub, gfUnit_sub, BitVec.xor_comm]

end Sys2Proof.Proofs
end

section
/-! SUPPORT. The field unit (40_field_arithmetic.md R115): multiplication is additive in each factor, so an identity of
additive functions is settled on the powers of x; associativity follows. -/

namespace Sys2Proof.Machine

/-! ### Multiplication is additive in each factor -/

theorem foldl_xor_xor (f g : Nat → Bool) (l : List Nat) (p q : Bool) :
    l.foldl (fun r i => r ^^ (f i ^^ g i)) (p ^^ q) =
      (l.foldl (fun r i => r ^^ f i) p ^^ l.foldl (fun r i => r ^^ g i) q) := by
  induction l generalizing p q with
  | nil => rfl
  | cons i l ih =>
    rw [List.foldl_cons, List.foldl_cons, List.foldl_cons, ← ih]
    simp only [Bool.xor_assoc, Bool.xor_left_comm]

theorem carrylessProduct_xor_right (a b c : Byte) :
    carrylessProduct a (b ^^^ c) = carrylessProduct a b ^^^ carrylessProduct a c := by
  refine BitVec.eq_of_getLsbD_eq fun n _ => ?_
  simp only [BitVec.getLsbD_xor, getLsbD_carrylessProduct, Bool.and_xor_distrib_right]
  exact foldl_xor_xor _ _ _ false false

theorem carrylessProduct_xor_left (a b c : Byte) :
    carrylessProduct (a ^^^ b) c = carrylessProduct a c ^^^ carrylessProduct b c := by
  refine BitVec.eq_of_getLsbD_eq fun n _ => ?_
  simp only [BitVec.getLsbD_xor, getLsbD_carrylessProduct, Bool.and_xor_distrib_left]
  exact foldl_xor_xor _ _ _ false false

theorem reduceBit_xor (k : Nat) (x y : BitVec 16) : reduceBit k (x ^^^ y) = reduceBit k x ^^^ reduceBit k y := by
  unfold reduceBit
  rw [BitVec.getLsbD_xor]
  cases x.getLsbD (8 + k) <;> cases y.getLsbD (8 + k) <;> simp <;> grind

theorem reduceBits_xor (k : Nat) (x y : BitVec 16) :
    reduceBits k (x ^^^ y) = reduceBits k x ^^^ reduceBits k y := by
  induction k generalizing x y with
  | zero => rfl
  | succ k ih => rw [reduceBits, reduceBit_xor, ih, reduceBits, reduceBits]

theorem gmul_xor_right (a b c : Byte) : gmul a (b ^^^ c) = gmul a b ^^^ gmul a c := by
  simp only [gmul, carrylessProduct_xor_right, reduce_eq_reduceBits, reduceBits_xor, BitVec.setWidth_xor]

theorem gmul_xor_left (a b c : Byte) : gmul (a ^^^ b) c = gmul a c ^^^ gmul b c := by
  simp only [gmul, carrylessProduct_xor_left, reduce_eq_reduceBits, reduceBits_xor, BitVec.setWidth_xor]

/-! ### Additive functions are determined by the powers of x -/

/-- The low k + 1 bits are the low k bits and bit k. -/
theorem setWidth_setWidth_succ_eq_xor {w : Nat} (x : BitVec w) (k : Nat) :
    (x.setWidth (k + 1)).setWidth w =
      (x.setWidth k).setWidth w ^^^ if x.getLsbD k then BitVec.twoPow w k else 0#w := by
  refine BitVec.eq_of_getLsbD_eq fun n hn => ?_
  cases h : x.getLsbD k <;> simp [BitVec.getLsbD_setWidth] <;> grind

/-- Two additive functions on bytes that agree on the powers of x agree: add the bits from the lowest up. -/
theorem eq_of_xor_additive {f g : Byte → Byte} (hf : ∀ x y, f (x ^^^ y) = f x ^^^ f y)
    (hg : ∀ x y, g (x ^^^ y) = g x ^^^ g y) (h : ∀ i : Fin 8, f (BitVec.twoPow 8 i) = g (BitVec.twoPow 8 i))
    (x : Byte) : f x = g x := by
  have hf0 : f 0#8 = 0#8 := by simpa using hf 0#8 0#8
  have hg0 : g 0#8 = 0#8 := by simpa using hg 0#8 0#8
  have hlow : ∀ k ≤ 8, f ((x.setWidth k).setWidth 8) = g ((x.setWidth k).setWidth 8) := by
    intro k hk
    induction k with
    | zero => simp [BitVec.of_length_zero, hf0, hg0]
    | succ k ih =>
      rw [setWidth_setWidth_succ_eq_xor, hf, hg, ih (by omega)]
      congr 1
      split
      · exact h ⟨k, hk⟩
      · rw [hf0, hg0]
  simpa using hlow 8 le_rfl

/-! ### Associativity -/

theorem twoPow_succ_eq_gmul_two : ∀ i : Fin 7, BitVec.twoPow 8 (i.val + 1) = gmul 2#8 (BitVec.twoPow 8 i) := by
  decide

theorem gmul_gmul_two_left_twoPow : ∀ i j : Fin 8, gmul (gmul 2#8 (BitVec.twoPow 8 i)) (BitVec.twoPow 8 j) =
    gmul 2#8 (gmul (BitVec.twoPow 8 i) (BitVec.twoPow 8 j)) := by
  decide +kernel

/-- Associativity for the factor x. -/
theorem gmul_gmul_two_left (a b : Byte) : gmul (gmul 2#8 a) b = gmul 2#8 (gmul a b) := by
  refine eq_of_xor_additive (f := fun a => gmul (gmul 2#8 a) b) (g := fun a => gmul 2#8 (gmul a b))
    (fun x y => ?_) (fun x y => ?_) (fun i => ?_) a
  · simp only [gmul_xor_right, gmul_xor_left]
  · simp only [gmul_xor_right, gmul_xor_left]
  refine eq_of_xor_additive (f := gmul _) (g := fun b => gmul 2#8 (gmul _ b))
    (gmul_xor_right _) (fun x y => ?_) (gmul_gmul_two_left_twoPow i) b
  simp only [gmul_xor_right]

/-- R115: for the powers of x as first factor by induction, and so for every sum of them. -/
theorem gmul_assoc (a b c : Byte) : gmul (gmul a b) c = gmul a (gmul b c) := by
  refine eq_of_xor_additive (f := fun a => gmul (gmul a b) c) (g := fun a => gmul a (gmul b c))
    (fun x y => ?_) (fun x y => ?_) (fun ⟨i, hi⟩ => ?_) a
  · simp only [gmul_xor_left]
  · simp only [gmul_xor_left]
  induction i with
  | zero =>
    have hone : BitVec.twoPow 8 0 = 1#8 := rfl
    simp only [hone, gmul_one_left]
  | succ i ih =>
    have hpow := twoPow_succ_eq_gmul_two ⟨i, by omega⟩
    simp only [hpow, gmul_gmul_two_left, ih (by omega)]

end Sys2Proof.Machine
end

section
/-! SUPPORT. The round transformations (41_round_transformations.md R140 to R149): each one's bytes in row and column
form, what undoes it, and the completion and frame of its uop. -/

namespace Sys2Proof.Machine

open Sys2Proof.Claims

/-! ### Running round uops (R140) -/

theorem roundFrame_advance_writeState (b : Block) (s : State) : roundFrame s (advance (writeState b s)) := rfl

/-- ARK k for each k the round-key file has (R148). -/
theorem exec_ark (k : Fin 11) (s : State) : exec (.ark (BitVec.ofNat 4 k.val)) s =
    .next (advance (writeState (addRoundKey s.state s.rk[k]) s)) := by
  have hk : (BitVec.ofNat 4 k.val).toNat = k.val := by simp; omega
  rw [exec, execArk_of_legal _ s (by omega)]
  simp [hk]

theorem execAll_pair {i j : Instr} {s t u : State} (hi : exec i s = .next t) (hj : exec j t = .next u) :
    execAll [i, j] s = .next u := by
  simp [execAll, hi, hj]

/-- A round uop whose function is undone by that of the next leaves STATE as it was. -/
theorem execAll_round_pair {i j : Instr} {f g : Block → Block} (hi : exec i = roundUop f) (hj : exec j = roundUop g)
    (hgf : ∀ b, g (f b) = b) (s : State) : ∃ t, execAll [i, j] s = .next t ∧ t.state = s.state :=
  ⟨_, execAll_pair (congrFun hi s) (congrFun hj _), hgf s.state⟩

/-! ### SubBytes and InvSubBytes (R141, R142) -/

/-- The two tables, entry by entry (20_memory.md R56 (c)). -/
theorem invSbox_sbox (x : Byte) : invSbox (sbox x) = x := by
  revert x; decide +kernel

theorem invSubBytes_subBytes (b : Block) : invSubBytes (subBytes b) = b := by
  ext i hi : 1
  rw [invSubBytes_getElem, subBytes_getElem, invSbox_sbox]

/-! ### ShiftRows and InvShiftRows (R143, R144) -/

theorem shiftRows_getElem_row (b : Block) (r c : Fin 4) :
    (shiftRows b)[r.val + 4 * c.val]'(by omega) = b[r.val + 4 * ((c.val + r.val) % 4)]'(by omega) := by
  have hrow : (r.val + 4 * c.val) % 4 = r := by omega
  have hcol : (r.val + 4 * c.val) / 4 = c := by omega
  simp only [shiftRows_getElem, hrow, hcol]

theorem invShiftRows_getElem_row (b : Block) (r c : Fin 4) :
    (invShiftRows b)[r.val + 4 * c.val]'(by omega) = b[r.val + 4 * ((c.val + (4 - r.val)) % 4)]'(by omega) := by
  have hrow : (r.val + 4 * c.val) % 4 = r := by omega
  have hcol : (r.val + 4 * c.val) / 4 = c := by omega
  have hsub : c.val + 4 - r.val = c.val + (4 - r.val) := by omega
  simp only [invShiftRows_getElem, hrow, hcol, hsub]

theorem invShiftRows_shiftRows (b : Block) : invShiftRows (shiftRows b) = b := by
  ext i hi : 1
  rw [invShiftRows_getElem, shiftRows_getElem]
  congr 1
  omega

/-! ### AddRoundKey (R148) -/

theorem addRoundKey_addRoundKey (b k : Block) : addRoundKey (addRoundKey b k) k = b := by
  ext i hi : 1
  rw [addRoundKey_getElem, addRoundKey_getElem, BitVec.xor_assoc, BitVec.xor_self, BitVec.xor_zero]

theorem addRoundKey_self (b : Block) : addRoundKey b b = Vector.replicate 16 0#8 := by
  ext i hi : 1
  rw [addRoundKey_getElem, BitVec.xor_self, Vector.getElem_replicate]

/-- The second ARK reads the round key the first one read. -/
theorem execAll_ark_ark (k : Fin 11) (s : State) :
    ∃ t, execAll [.ark (BitVec.ofNat 4 k.val), .ark (BitVec.ofNat 4 k.val)] s = .next t ∧ t.state = s.state := by
  refine ⟨_, execAll_pair (exec_ark k s) (exec_ark k _), ?_⟩
  simp only [advance_state, advance_rk, writeState_state, writeState_rk, addRoundKey_addRoundKey]

/-- Word 4k + j of the key schedule is word j of RK[k] (10_state.md R33). -/
theorem scheduleSlice_word (rk : RoundKeys) (k : Fin 11) (j : Fin 4) :
    scheduleSlice rk ⟨4 * k.val + j.val, by omega⟩ = column rk[k] j := by
  have hk : (4 * k.val + j.val) / 4 = k := by omega
  have hj : (4 * k.val + j.val) % 4 = j := by omega
  simp only [scheduleSlice, hk, hj, Fin.getElem_fin]

/-! ### The mixing matrices (R145): mixing twice is mixing by the product -/

/-- The product of two matrices over the field. -/
def matrixProduct (m n : Matrix4) : Matrix4 :=
  Vector.ofFn fun r => Vector.ofFn fun c =>
    gmul m[r][0] n[0][c] ^^^ gmul m[r][1] n[1][c] ^^^ gmul m[r][2] n[2][c] ^^^ gmul m[r][3] n[3][c]

/-- The unit matrix. -/
def matrixOne : Matrix4 :=
  #v[#v[1#8, 0#8, 0#8, 0#8], #v[0#8, 1#8, 0#8, 0#8], #v[0#8, 0#8, 1#8, 0#8], #v[0#8, 0#8, 0#8, 1#8]]

theorem mixColumn_mixColumn (m n : Matrix4) (col : Word) :
    mixColumn m (mixColumn n col) = mixColumn (matrixProduct m n) col := by
  ext r hr : 1
  simp only [mixColumn_getElem, matrixProduct, Vector.getElem_ofFn, Fin.getElem_fin, gmul_xor_right, gmul_xor_left,
    gmul_assoc]
  ac_rfl

theorem mixColumn_matrixOne (col : Word) : mixColumn matrixOne col = col := by
  ext r hr : 1
  interval_cases r <;> simp [matrixOne]

theorem matrixProduct_inverse_forward : matrixProduct matrixInverse matrixForward = matrixOne := by decide

theorem mixColumn_inverse_forward (col : Word) : mixColumn matrixInverse (mixColumn matrixForward col) = col := by
  rw [mixColumn_mixColumn, matrixProduct_inverse_forward, mixColumn_matrixOne]

theorem matrixForward_circulant :
    ∀ r j : Fin 4, matrixForward[r][j] = circulant #v[0x02#8, 0x03#8, 0x01#8, 0x01#8] r j := by decide

theorem matrixInverse_circulant :
    ∀ r j : Fin 4, matrixInverse[r][j] = circulant #v[0x0E#8, 0x0B#8, 0x0D#8, 0x09#8] r j := by decide

/-! ### MixColumns and InvMixColumns, column by column (R146, R147) -/

theorem column_mixBlock (m : Matrix4) (b : Block) (c : Fin 4) :
    column (mixBlock m b) c = mixColumn m (column b c) := by
  ext r hr : 1
  have hcol : (4 * c.val + r) / 4 = c := by omega
  have hrow : (4 * c.val + r) % 4 = r := by omega
  simp only [column_getElem, mixBlock_getElem, hcol, hrow]

theorem mixBlock_getElem_of_circulant {m : Matrix4} {l : Word} (hm : ∀ r j : Fin 4, m[r][j] = circulant l r j)
    (b : Block) (r c : Fin 4) : (mixBlock m b)[r.val + 4 * c.val]'(by omega) =
      gmul (circulant l r 0) (b[0 + 4 * c.val]'(by omega)) ^^^
      gmul (circulant l r 1) (b[1 + 4 * c.val]'(by omega)) ^^^
      gmul (circulant l r 2) (b[2 + 4 * c.val]'(by omega)) ^^^
      gmul (circulant l r 3) (b[3 + 4 * c.val]'(by omega)) := by
  have hcol : (r.val + 4 * c.val) / 4 = c := by omega
  have hrow : (r.val + 4 * c.val) % 4 = r := by omega
  simp only [mixBlock_getElem, hcol, hrow, mixColumn_getElem, column_getElem, ← hm]
  simp [Nat.add_comm]

/-- A matrix whose rows each add up to 1 keeps a column of equal bytes. -/
theorem column_mixBlock_of_replicate {m : Matrix4}
    (hm : ∀ (r : Nat) (h : r < 4), m[r][0] ^^^ m[r][1] ^^^ m[r][2] ^^^ m[r][3] = 1#8)
    {b : Block} {c : Fin 4} {x : Byte} (hx : column b c = Vector.replicate 4 x) :
    column (mixBlock m b) c = Vector.replicate 4 x := by
  rw [column_mixBlock, hx]
  ext r hr : 1
  simp only [mixColumn_getElem, Vector.getElem_replicate, ← gmul_xor_left, hm r hr, gmul_one_left]

/-- The first unit column becomes the first column of the matrix. -/
theorem column_mixBlock_of_unit {m : Matrix4} {b : Block} {c : Fin 4} (hc : column b c = #v[1#8, 0#8, 0#8, 0#8]) :
    column (mixBlock m b) c = Vector.ofFn fun r => m[r][0] := by
  rw [column_mixBlock, hc]
  ext r hr : 1
  simp

theorem invMixColumns_mixColumns (b : Block) : invMixColumns (mixColumns b) = b := by
  ext i hi : 1
  rw [invMixColumns, mixBlock_getElem, mixColumns]
  simp only [column_mixBlock, mixColumn_inverse_forward, column_getElem, Nat.div_add_mod]

end Sys2Proof.Machine

namespace Sys2Proof.Proofs

open Sys2Proof.Machine Sys2Proof.Claims

/-- Settles O23: byte r + 4c of the flat form of R143 is byte (r, (c + r) mod 4), which at r = 0 is (0, c). -/
theorem shiftRowsResult : Obligations.ShiftRowsResult := by
  unfold Obligations.ShiftRowsResult
  refine ⟨rfl, fun s => ⟨_, rfl, roundFrame_advance_writeState _ s, shiftRows_getElem_row s.state, fun c => ?_⟩,
    ?_, ?_⟩
  · simp [Nat.mod_eq_of_lt]
  · decide
  · decide

/-- Settles O24: byte r + 4c of the flat form of R144, and the two index maps composed. -/
theorem invShiftRowsResult : Obligations.InvShiftRowsResult := by
  unfold Obligations.InvShiftRowsResult
  refine ⟨rfl, fun s => ⟨_, rfl, roundFrame_advance_writeState _ s, invShiftRows_getElem_row s.state⟩,
    invShiftRows_shiftRows, ?_, ?_⟩
  · decide
  · decide

/-- Settles O25: MF is the circulant matrix of its first row, and its rows each add up to 1. -/
theorem mixColumnsResult : Obligations.MixColumnsResult := by
  unfold Obligations.MixColumnsResult
  refine ⟨rfl, fun s => ⟨_, rfl, roundFrame_advance_writeState _ s,
    mixBlock_getElem_of_circulant matrixForward_circulant s.state, fun c x => column_mixBlock_of_replicate (by decide),
    fun c hc => (column_mixBlock_of_unit hc).trans (by decide)⟩, ?_, ?_⟩
  · decide
  · decide

/-- Settles O26: MI is the circulant matrix of its first row, its rows each add up to 1, and its product with MF is
the unit matrix. -/
theorem invMixColumnsResult : Obligations.InvMixColumnsResult := by
  unfold Obligations.InvMixColumnsResult
  refine ⟨rfl, fun s => ⟨_, rfl, roundFrame_advance_writeState _ s,
    mixBlock_getElem_of_circulant matrixInverse_circulant s.state, fun c x => column_mixBlock_of_replicate (by decide),
    fun c hc => (column_mixBlock_of_unit hc).trans (by decide)⟩, mixColumn_inverse_forward, ?_, ?_⟩
  · decide
  · decide

/-- Settles O27: ARK k is the byte-wise sum with RK[k], which is its own inverse. -/
theorem addRoundKeyResult : Obligations.AddRoundKeyResult := by
  unfold Obligations.AddRoundKeyResult
  refine ⟨fun k s => ⟨?_, ⟨_, exec_ark k s, roundFrame_advance_writeState _ s, fun i => ?_, fun j b => ?_,
    fun hs => ?_⟩, execAll_ark_ark k s⟩, fun s hs hk => ⟨_, exec_ark 0 s, ?_⟩⟩
  · rw [encode_ark]
    revert k; decide
  · exact addRoundKey_getElem s.state s.rk[k] i i.isLt
  · simp [scheduleSlice_word]
  · rw [advance_state, writeState_state, hs, addRoundKey_self]
  · have hexample : addRoundKey s.state s.rk[0] = bytes 0x00102030405060708090a0b0c0d0e0f0 := by
      rw [hs, hk]
      decide
    exact hexample

/-- Settles O28: each pair by the law that undoes its first function. -/
theorem roundUopsUndoTheirInverses : Obligations.RoundUopsUndoTheirInverses := by
  unfold Obligations.RoundUopsUndoTheirInverses
  exact fun s => ⟨execAll_round_pair rfl rfl invShiftRows_shiftRows s,
    execAll_round_pair rfl rfl invMixColumns_mixColumns s, execAll_round_pair rfl rfl invSubBytes_subBytes s,
    fun k => execAll_ark_ark k s⟩

/-- Settles O21: SB acts byte by byte. -/
theorem subBytesResult : Obligations.SubBytesResult := by
  unfold Obligations.SubBytesResult
  refine ⟨rfl, fun s => ⟨_, rfl, roundFrame_advance_writeState _ s, fun i => subBytes_getElem s.state i i.isLt⟩,
    fun s hs => ⟨_, rfl, ?_⟩⟩
  rw [advance_state, writeState_state, hs]
  decide

/-- Settles O22: ISB acts byte by byte, and INV_SBOX undoes SBOX. -/
theorem invSubBytesResult : Obligations.InvSubBytesResult := by
  unfold Obligations.InvSubBytesResult
  refine ⟨rfl, fun s => ⟨_, rfl, roundFrame_advance_writeState _ s,
    fun i => invSubBytes_getElem s.state i i.isLt⟩, invSbox_sbox, fun s hs => ⟨_, rfl, ?_⟩⟩
  rw [advance_state, writeState_state, hs]
  decide

end Sys2Proof.Proofs
end

section
/-! SUPPORT. The key schedule (42_key_schedule.md R170 to R174): the round constants as a recurrence, the g-function
byte by byte, the next round key word by word, and the completion and frame of KEXP. -/

namespace Sys2Proof.Machine

/-! ### The round constants (R170) -/

theorem rcon_one : rcon 1 (by decide) = 0x01#8 := rfl

/-- Each round constant is the one before times x. -/
theorem rcon_succ : ∀ n : Fin 9, rcon (n.val + 2) (by omega) = gmul (rcon (n.val + 1) (by omega)) 0x02#8 := by
  decide

/-- RCON[n + 1] is 01 doubled n times. -/
theorem rcon_eq_foldl (n : Nat) (h : 1 ≤ n + 1 ∧ n + 1 ≤ 10) :
    rcon (n + 1) h = (List.range n).foldl (fun x _ => gmul x 0x02#8) 0x01#8 := by
  induction n with
  | zero => exact rcon_one
  | succ n ih =>
    rw [List.range_succ, List.foldl_append, ← ih (by omega)]
    exact rcon_succ ⟨n, by omega⟩

/-! ### The g-function (R171 to R173) -/

@[simp] theorem subWord_getElem (w : Word) (i : Nat) (h : i < 4) : (subWord w)[i] = sbox w[i] := by
  interval_cases i <;> rfl

theorem gFunction_eq (w : Word) (r : Nat) (h : 1 ≤ r ∧ r ≤ 10) :
    gFunction w r h = #v[sbox w[1] ^^^ rcon r h, sbox w[2], sbox w[3], sbox w[0]] := rfl

/-! ### The next round key, word by word (R174) -/

@[simp] theorem column_ofColumns (w : Vector Word 4) (j : Fin 4) : column (ofColumns w) j = w[j] := by
  ext r hr : 1
  have hcol : (4 * j.val + r) / 4 = j := by omega
  have hrow : (4 * j.val + r) % 4 = r := by omega
  simp only [column_getElem, ofColumns_getElem, hcol, hrow, Fin.getElem_fin]

/-- n[0] is word 0 of the key before plus the g-function of its word 3. -/
theorem column_nextRoundKey_zero (p : Block) (k : Nat) (h : 1 ≤ k ∧ k ≤ 10) :
    column (nextRoundKey p k h) 0 = xorBytes (column p 0) (gFunction (column p 3) k h) :=
  column_ofColumns _ 0

/-- Each later n[j] is word j of the key before plus n[j - 1]. -/
theorem column_nextRoundKey_succ (p : Block) (k : Nat) (h : 1 ≤ k ∧ k ≤ 10) (j : Fin 3) :
    column (nextRoundKey p k h) j.succ =
      xorBytes (column p j.succ) (column (nextRoundKey p k h) j.castSucc) := by
  rw [nextRoundKey, column_ofColumns, column_ofColumns]
  fin_cases j <;> rfl

/-! ### Running KEXP (R174) -/

/-- The word of KEXP k is 0x10 + k (R85, R92). -/
theorem encode_kexp (k : BitVec 4) : encode (.kexp k) = .uop (BitVec.ofNat 8 (0x10 + k.toNat)) := by
  revert k; decide

/-- KEXP k for each k in 1..10: only RK[k] and UPC are written. -/
theorem exec_kexp (k : Nat) (h : 1 ≤ k ∧ k ≤ 10) (s : State) : exec (.kexp (BitVec.ofNat 4 k)) s =
    .next (advance (writeRoundKey k (by omega) (nextRoundKey (s.rk[k - 1]'(by omega)) k h) s)) := by
  have hk : (BitVec.ofNat 4 k).toNat = k := by simp; omega
  rw [exec, execKexp_of_legal _ s (by omega)]
  simp [hk]

theorem advance_writeRoundKey_frame (k : Nat) (h : k < 11) (b : Block) (s : State) :
    advance (writeRoundKey k h b s) =
      { s with rk := s.rk.set k (advance (writeRoundKey k h b s)).rk[k], upc := s.upc + 1#6 } := by
  rw [advance_rk, writeRoundKey_rk, Vector.getElem_set_self]
  rfl

end Sys2Proof.Machine

namespace Sys2Proof.Proofs

open Sys2Proof.Machine

/-- Settles O31: KEXP k writes RK[k] and UPC alone, and the new round key follows the recurrence word by word. -/
theorem keyExpansionStepResult : Obligations.KeyExpansionStepResult := by
  unfold Obligations.KeyExpansionStepResult
  refine ⟨fun k h s => ⟨?_, _, exec_kexp k h s, advance_writeRoundKey_frame k _ _ s, fun b => ?_, fun j b => ?_⟩,
    ?_, ?_⟩
  · rw [encode_kexp, BitVec.toNat_ofNat, Nat.mod_eq_of_lt (by omega)]
  · simp [column_nextRoundKey_zero]
  · simp [column_nextRoundKey_succ]
  · decide
  · decide

/-- Settles O19: each constant is the one before doubled, from RCON[1] = 01 on. -/
theorem roundConstantsArePowersOfX : Obligations.RoundConstantsArePowersOfX := by
  unfold Obligations.RoundConstantsArePowersOfX
  refine ⟨fun r h => ?_, rfl⟩
  obtain ⟨n, rfl⟩ : ∃ n, r = n + 1 := ⟨r - 1, by omega⟩
  exact rcon_eq_foldl n h

/-- Settles O30: the three functions byte by byte. -/
theorem gFunctionResult : Obligations.GFunctionResult := by
  unfold Obligations.GFunctionResult
  exact fun w r h => ⟨rfl, fun i => subWord_getElem w i i.isLt, gFunction_eq w r h⟩

end Sys2Proof.Proofs
end

section
/-! SUPPORT. The sequencer (43_sequencer.md R191 to R202): the accept of a presented command, what a running core makes
of the ports, FIN and what it presents, the micro-programs, and a reversed fold of undoing rounds. -/

namespace Sys2Proof.Machine

open Sys2Proof.Claims

/-! ### The host's move and the conditions of the next event -/

/-- Of the host's moves only the next one can assert rst. -/
theorem endEvent_rst_of_head?_ne {s : State} (hr : s.rst = 0#1) (hm : s.script.head? ≠ some .assertReset) :
    (endEvent s).rst = 0#1 := by
  unfold endEvent hostMove
  cases hs : s.script with
  | nil => exact hr
  | cons m rest =>
    rw [hs] at hm
    cases m with
    | assertReset => exact absurd rfl hm
    | present c => simp only; split <;> exact hr
    | releaseReset => rfl
    | _ => exact hr

/-- The end of an event leaves the first reset and the field unit's inputs alone. -/
theorem ready_endEvent {s : State} (h : ready s) : ready (endEvent s) := by
  simpa [ready, fieldWaits] using h

/-! ### Accept (R192) -/

/-- An idle core out of reset takes the presented command next. -/
theorem nextEvent_of_presented {s : State} {c : Command} (hs : ready s) (hr : s.rst = 0#1) (hb : s.busy = 0#1)
    (hc : s.cmd = some c) : nextEvent s = .run .commandPort (decodeCmd (commandWord c)) := by
  obtain ⟨hw, hg⟩ := hs
  simp [nextEvent, idleEvent, hr, hw, hg, hb, hc]

/-- The accept step, its operands those of the ports. -/
theorem step_of_presented {s : State} {c : Command} (hs : ready s) (hr : s.rst = 0#1) (hb : s.busy = 0#1)
    (hc : s.cmd = some c) :
    step s = .next (endEvent (retire .commandPort (accept c.op (bytes c.key) (bytes c.data) s))) := by
  rw [step_of_run s _ _ (nextEvent_of_presented hs hr hb hc), exec_cmd_next _ s hb hr, mapNext_next, commandWord,
    cmdOpOf_cmdWord, cmdKeyOf_cmdWord, cmdDataOf_cmdWord]

/-! ### The ports of a running core (R191) -/

/-- A uop neither reads nor writes the command ports. -/
theorem exec_uop_withCmd {i : Instr} (hf : instrFormat i = .uop) (s : State) (p : Option Command) :
    exec i { s with cmd := p } = mapNext (fun t => { t with cmd := p }) (exec i s) := by
  cases i with
  | encrypt key data => cases hf
  | decrypt key data => cases hf
  | gfAdd a b => cases hf
  | gfSub a b => cases hf
  | gfMul a b => cases hf
  | kexp k => simp only [exec, execKexp]; split <;> rfl
  | ark k => simp only [exec, execArk]; split <;> rfl
  | _ => rfl

/-- A uop leaves the ports and the host's coming moves alone. -/
theorem exec_uop_ports {i : Instr} {s t : State} (hf : instrFormat i = .uop) (h : exec i s = .next t) :
    t.cmd = s.cmd ∧ t.script = s.script := by
  obtain ⟨-, rfl⟩ | ⟨k, hk, -, rfl⟩ | ⟨-, -, b, rfl⟩ := exec_uop_next i s t hf h
  · exact ⟨rfl, rfl⟩
  · exact ⟨rfl, rfl⟩
  · exact ⟨rfl, rfl⟩

/-- A running core whose step goes on has run a uop. -/
theorem exists_uop_of_step_busy {s t : State} (hs : ready s) (hr : s.rst = 0#1) (hb : s.busy = 1#1)
    (h : step s = .next t) :
    ∃ i u, nextEvent s = .run .microProgram i ∧ instrFormat i = .uop ∧ exec i s = .next u ∧ t = endEvent u := by
  obtain hle | hgt := le_or_gt s.upc.toNat 50
  · obtain ⟨i, he⟩ := exists_run_of_busy hs hr hb hle
    rw [step_of_run s _ i he] at h
    obtain ⟨u, hx, ht⟩ := (mapNext_eq_next _ _ t).1 h
    exact ⟨i, u, he, instrFormat_of_run s _ i he, hx, ht⟩
  · rw [step_of_busy_above_fin hs hr hb hgt] at h
    cases h

/-- The ports do not enter the event of a running core. -/
theorem nextEvent_of_busy_withCmd {s : State} (hs : ready s) (hr : s.rst = 0#1) (hb : s.busy = 1#1)
    (p : Option Command) : nextEvent { s with cmd := p } = nextEvent s := by
  rw [nextEvent_of_busy hs hr hb]
  exact nextEvent_of_busy (s := { s with cmd := p }) hs hr hb

/-- A running core writes the same registers whatever stands on the command ports. -/
theorem step_of_busy_withCmd {s t : State} (hs : ready s) (hr : s.rst = 0#1) (hb : s.busy = 1#1)
    (h : step s = .next t) (p : Option Command) :
    ∃ u, step { s with cmd := p } = .next u ∧ sameRegisters t u := by
  obtain ⟨i, u, he, hf, hx, rfl⟩ := exists_uop_of_step_busy hs hr hb h
  refine ⟨endEvent { u with cmd := p }, ?_, by simp [sameRegisters]⟩
  rw [step_of_run _ _ i ((nextEvent_of_busy_withCmd hs hr hb p).trans he), exec_uop_withCmd hf, hx, mapNext_next,
    mapNext_next, retire_microProgram]

/-- A command presented to a running core is not taken, and waits unless the host withdraws it. -/
theorem step_keeps_waiting_command {s t : State} {c : Command} (hb : s.busy = 1#1) (hc : s.cmd = some c)
    (hw : s.script.head? ≠ some .withdraw) (h : step s = .next t) :
    ¬ isAccept (nextEvent s) ∧ t.cmd = some c := by
  cases stepEffect_of_step h with
  | reset he => exact ⟨by simp [isAccept, he], endEvent_cmd_of_some _ c hc hw⟩
  | idle he => exact ⟨by simp [isAccept, he], endEvent_cmd_of_some _ c hc hw⟩
  | accept _ _ _ hidle => simp [hb] at hidle
  | field i fsel a b he => exact ⟨by simp [isAccept, he], endEvent_cmd_of_some _ c hc hw⟩
  | uop i u he hf _ hx =>
    obtain ⟨hcmd, hscript⟩ := exec_uop_ports hf hx
    exact ⟨by simp [isAccept, he], endEvent_cmd_of_some u c (hcmd.trans hc) (hscript ▸ hw)⟩

/-! ### What FIN presents (R196) -/

theorem rspData_of_valid {s : State} (h : s.rspv = 1#1) : rspData s = bus s.dout :=
  if_pos h

/-- A presented result stays through every event but accept and reset: a uop runs only while BUSY = 1, and then no
result is presented (10_state.md R40 (a)). -/
theorem step_keeps_response {s t : State} (hinv : responseOnlyIdle s) (hv : s.rspv = 1#1) (h : step s = .next t)
    (hreset : nextEvent s ≠ .reset) (haccept : ¬ isAccept (nextEvent s)) : t.rspv = 1#1 ∧ t.dout = s.dout := by
  cases stepEffect_of_step h with
  | reset he => exact absurd he hreset
  | accept c he => exact absurd ⟨_, he⟩ haccept
  | uop i u he hf hb => simp [hinv hv] at hb
  | idle => simp [hv]
  | field => simp [hv]

/-! ### The micro-programs (R197, R198) -/

theorem memRead_program_eq_fin_iff (op : BitVec 1) (n : Nat) :
    memRead (programOf op) n = some 0x90#8 ↔ n = 50 := by
  constructor
  · intro h
    exact (program_entry_eq_fin_iff h ((decodeUop_eq_fin_iff _).2 rfl)).1 rfl
  · rintro rfl
    exact (program_fin_word_index op 50).2 rfl

/-- Round r of encryption stands at 11 + 4 (r - 1), that of decryption at 11 + 4 (9 - r); here r = n + 1. -/
theorem program_round_entries : ∀ n : Fin 9,
    uprogEnc[11 + 4 * n.val]? = some 0x30#8 ∧ uprogEnc[12 + 4 * n.val]? = some 0x50#8 ∧
    uprogEnc[13 + 4 * n.val]? = some 0x70#8 ∧
    uprogEnc[14 + 4 * n.val]? = some (BitVec.ofNat 8 (0x20 + (n.val + 1))) ∧
    uprogDec[11 + 4 * (9 - (n.val + 1))]? = some 0x60#8 ∧ uprogDec[12 + 4 * (9 - (n.val + 1))]? = some 0x40#8 ∧
    uprogDec[13 + 4 * (9 - (n.val + 1))]? = some (BitVec.ofNat 8 (0x20 + (n.val + 1))) ∧
    uprogDec[14 + 4 * (9 - (n.val + 1))]? = some 0x80#8 := by
  decide

/-! ### Decryption against encryption (R202) -/

/-- If under `h` each turn of `g` undoes the turn of `f` with the same element, the fold of `g` from the last element
back undoes the fold of `f`. -/
theorem foldl_reverse_foldl {α β γ : Type} {f : β → α → β} {g : γ → α → γ} {h : β → γ}
    (hgf : ∀ s a, g (h (f s a)) a = h s) (l : List α) (s : β) : l.reverse.foldl g (h (l.foldl f s)) = h s := by
  induction l generalizing s with
  | nil => rfl
  | cons a l ih => rw [List.foldl_cons, List.reverse_cons, List.foldl_concat, ih, hgf]

/-- A middle round of encryption, 1 to 9 (R200). -/
def encryptRound (rk : RoundKeys) (b : Block) (round : Fin 11) : Block :=
  addRoundKey (mixColumns (shiftRows (subBytes b))) rk[round]

/-- A middle round of decryption, 9 to 1 (R201). -/
def decryptRound (rk : RoundKeys) (b : Block) (round : Fin 11) : Block :=
  invMixColumns (addRoundKey (invSubBytes (invShiftRows b)) rk[round])

theorem encryptBlock_eq_foldl (b key : Block) : encryptBlock b key =
    addRoundKey (shiftRows (subBytes (middleRounds.foldl (encryptRound (generateSubkeys key))
      (addRoundKey b (generateSubkeys key)[0])))) (generateSubkeys key)[10] := rfl

theorem decryptBlock_eq_foldl (b key : Block) : decryptBlock b key =
    addRoundKey (invSubBytes (invShiftRows (middleRounds.reverse.foldl (decryptRound (generateSubkeys key))
      (addRoundKey b (generateSubkeys key)[10])))) (generateSubkeys key)[0] := rfl

theorem invSubBytes_invShiftRows_shiftRows_subBytes (b : Block) :
    invSubBytes (invShiftRows (shiftRows (subBytes b))) = b := by
  rw [invShiftRows_shiftRows, invSubBytes_subBytes]

/-- The rounds of decryption fall half a round behind: each takes SR and SB of a round's result to SR and SB of what
that round began with. -/
theorem decryptRound_encryptRound (rk : RoundKeys) (b : Block) (round : Fin 11) :
    decryptRound rk (shiftRows (subBytes (encryptRound rk b round))) round = shiftRows (subBytes b) := by
  rw [decryptRound, invSubBytes_invShiftRows_shiftRows_subBytes, encryptRound, addRoundKey_addRoundKey,
    invMixColumns_mixColumns]

/-- R202: the outer ARKs and the final round undo each other directly, the middle rounds one after another. -/
theorem decryptBlock_encryptBlock (b k : Block) : decryptBlock (encryptBlock b k) k = b := by
  have hrounds := foldl_reverse_foldl (h := fun b => shiftRows (subBytes b))
    (decryptRound_encryptRound (generateSubkeys k)) middleRounds
  rw [decryptBlock_eq_foldl, encryptBlock_eq_foldl, addRoundKey_addRoundKey, hrounds,
    invSubBytes_invShiftRows_shiftRows_subBytes, addRoundKey_addRoundKey]

end Sys2Proof.Machine

namespace Sys2Proof.Proofs

open Sys2Proof.Machine Sys2Proof.Claims

/-- Settles O36: the accept event is the command's exec on the ports' fields; a running core's next event is fetched
without the ports, and a uop does not read them. -/
theorem acceptTakesTheCommandFromThePorts : Obligations.AcceptTakesTheCommandFromThePorts := by
  unfold Obligations.AcceptTakesTheCommandFromThePorts
  refine ⟨fun s => ?_, fun s c hs hb hr hc => ⟨_, step_of_presented hs hr hb hc, ?_⟩,
    fun s t p hs hb hr h => step_of_busy_withCmd hs hr hb h p⟩
  · rw [cmdReady_eq_one_iff, ← and_assoc, and_comm]
  · simp

/-- Settles O37: no event of a running core takes the command; FIN leaves a ready idle core with the command still
on its ports, and so its accept is next. -/
theorem commandsWaitWhileRunning : Obligations.CommandsWaitWhileRunning := by
  unfold Obligations.CommandsWaitWhileRunning
  refine ⟨fun s K D hb => ⟨?_, command_of_busy 0#1 K D s hb, command_of_busy 1#1 K D s hb⟩,
    fun s t c hb hc hw h => step_keeps_waiting_command hb hc hw h, fun s c hs hr hb hupc hc hw ha => ?_⟩
  · rw [← bit_ne_one_iff, ne_eq, cmdReady_eq_one_iff, hb]
    simp
  · have hfin := step_of_run_fin (nextEvent_of_busy_at_fin hs hr hb (by rw [hupc]; rfl))
    have hready : ready (endEvent (finish s)) := ready_endEvent (s := finish s) hs
    have hrst : (endEvent (finish s)).rst = 0#1 := endEvent_rst_of_head?_ne (s := finish s) hr ha
    have hidle : (endEvent (finish s)).busy = 0#1 := by simp
    have hcmd : (endEvent (finish s)).cmd = some c := endEvent_cmd_of_some (finish s) c hc hw
    refine ⟨_, _, hfin, step_of_presented hready hrst hidle hcmd,
      ⟨_, nextEvent_of_presented hready hrst hidle hcmd⟩, ?_⟩
    simp

/-- Settles O38: FIN stands only at index 50, and only a uop, accept or reset writes RSPV or DOUT. -/
theorem finishPresentsTheResult : Obligations.FinishPresentsTheResult := by
  unfold Obligations.FinishPresentsTheResult
  refine ⟨rfl, fun s => rfl, fun s he => ?_, fun s t hinv hv h hreset haccept => ?_⟩
  · exact BitVec.eq_of_toNat_eq ((upc_of_run_microProgram he).2.1 rfl)
  · obtain ⟨hresponse, -, -⟩ := hinv
    obtain ⟨htv, htd⟩ := step_keeps_response hresponse hv h hreset haccept
    exact ⟨htv, htd, by rw [rspData_of_valid htv, rspData_of_valid hv, htd]⟩

/-- Settles O45: the rounds of decryption undo those of encryption from the last one back, on each block. -/
theorem decryptUndoesEncrypt : Obligations.DecryptUndoesEncrypt := by
  unfold Obligations.DecryptUndoesEncrypt
  refine ⟨decryptBlock_encryptBlock, fun text k => ?_⟩
  simp [Function.comp_def, decryptBlock_encryptBlock]

/-- Settles O20: the lists byte by byte, FIN by the index of its word, the rounds by their places. -/
theorem microProgramsAreTheListedUops : Obligations.MicroProgramsAreTheListedUops := by
  unfold Obligations.MicroProgramsAreTheListedUops
  refine ⟨by decide, by decide, rfl, rfl, fun n => ?_, fun n => ?_, fun r h1 h9 => ?_⟩
  · exact memRead_program_eq_fin_iff 0#1 n
  · exact memRead_program_eq_fin_iff 1#1 n
  · obtain ⟨n, rfl⟩ : ∃ n, r = n + 1 := ⟨r - 1, by omega⟩
    exact program_round_entries ⟨n, h9⟩

end Sys2Proof.Proofs
end

section
/-! SUPPORT. The encodings, both ways (30_encoding.md R80 to R92; 20_memory.md R53): a block is the bytes of its bus
value and the other way round, a word is made of its fields, and so decoding and encoding undo each other. -/

namespace Sys2Proof.Machine

/-! ### Bytes and bus (20_memory.md R53) -/

/-- Byte i of a block stands in bits [127-8i : 120-8i] of its bus value. -/
theorem extractLsb'_bus (b : Block) {i : Nat} (h : i < 16) : (bus b).extractLsb' (120 - 8 * i) 8 = b[i] := by
  unfold bus
  interval_cases i <;>
    simp only [BitVec.extractLsb'_append_eq_of_le, BitVec.extractLsb'_append_eq_right, Nat.reduceMul, Nat.reduceSub,
      Nat.reduceLeDiff, BitVec.extractLsb'_eq_self]

@[simp] theorem bytes_bus (b : Block) : bytes (bus b) = b := by
  ext i hi : 1
  rw [bytes_getElem, extractLsb'_bus]

/-- Bit n of a bus value is a bit of byte 15 - n / 8. -/
theorem bytes_injective : Function.Injective bytes := by
  intro v w h
  refine BitVec.eq_of_getLsbD_eq fun n hn => ?_
  have hbyte := congrArg (fun b : Block => (b[15 - n / 8]).getLsbD (n % 8)) h
  have hplace : 120 - 8 * (15 - n / 8) + n % 8 = n := by omega
  simpa [hplace, Nat.mod_lt] using hbyte

@[simp] theorem bus_bytes (v : BitVec 128) : bus (bytes v) = v :=
  bytes_injective (bytes_bus (bytes v))

/-! ### A word is made of its fields (R81, R84, R88) -/

theorem cmdWord_fields (w : BitVec 257) : cmdWord (cmdOpOf w) (bus (cmdKeyOf w)) (bus (cmdDataOf w)) = w := by
  rw [cmdKeyOf, cmdDataOf, bus_bytes, bus_bytes, cmdWord, cmdOpOf,
    BitVec.extractLsb'_append_extractLsb'_eq_extractLsb', BitVec.extractLsb'_append_extractLsb'_eq_extractLsb']
  · exact BitVec.extractLsb'_eq_self
  · rfl
  · rfl

theorem uopWord_fields (u : BitVec 8) : uopWord (uopOpc u) (uopK u) = u := by
  rw [uopWord, uopOpc, uopK, BitVec.extractLsb'_append_extractLsb'_eq_extractLsb']
  · exact BitVec.extractLsb'_eq_self
  · rfl

theorem gfWord_fields (w : BitVec 18) : gfWord (gfFsel w) (gfA w) (gfB w) = w := by
  rw [gfWord, gfFsel, gfA, gfB,
    BitVec.extractLsb'_append_extractLsb'_eq_extractLsb', BitVec.extractLsb'_append_extractLsb'_eq_extractLsb']
  · exact BitVec.extractLsb'_eq_self
  · rfl
  · rfl

/-! ### Decoding the word of an instruction (R82, R85, R86, R89) -/

theorem decodeCmd_cmdWord_zero (key data : BitVec 128) :
    decodeCmd (cmdWord 0#1 key data) = .encrypt (bytes key) (bytes data) := by
  simp [decodeCmd]

theorem decodeCmd_cmdWord_one (key data : BitVec 128) :
    decodeCmd (cmdWord 1#1 key data) = .decrypt (bytes key) (bytes data) := by
  simp [decodeCmd]

/-- The decoder of uops on the word of each legal round index. -/
theorem decodeUop_kexp_word : ∀ k : BitVec 4, 1 ≤ k.toNat ∧ k.toNat ≤ 10 →
    decodeUop (uopWord 0x1#4 k) = .ok (.kexp k) := by
  decide

theorem decodeUop_ark_word : ∀ k : BitVec 4, k.toNat ≤ 10 → decodeUop (uopWord 0x2#4 k) = .ok (.ark k) := by
  decide

/-- Decoding undoes encoding, format by format. -/
theorem decode_encode {i : Instr} (h : wellFormed i = true) : decode (encode i) = .ok i := by
  cases i with
  | encrypt key data => simp [encode, decode, decodeCmd_cmdWord_zero]
  | decrypt key data => simp [encode, decode, decodeCmd_cmdWord_one]
  | kexp k => exact decodeUop_kexp_word k (by simpa [wellFormed] using h)
  | ark k => exact decodeUop_ark_word k (by simpa [wellFormed] using h)
  | gfAdd a b => simp [encode, decode, decodeGf, gfFields_gfWord]
  | gfSub a b => simp [encode, decode, decodeGf, gfFields_gfWord]
  | gfMul a b => simp [encode, decode, decodeGf, gfFields_gfWord]
  | _ => rfl

/-! ### Encoding what a word decodes to -/

theorem encode_decodeCmd (w : BitVec 257) : encode (decodeCmd w) = .cmd w := by
  obtain ⟨hop, hd⟩ | ⟨hop, hd⟩ := decodeCmd_cases w
  · rw [hd, encode, ← hop, cmdWord_fields]
  · rw [hd, encode, ← hop, cmdWord_fields]

/-- A uop without a round index is the one of its opcode with k = 0 (R86). -/
theorem eq_uopWord_of_decodePlain_ok {u : BitVec 8} {i j : Instr} (h : decodePlain u i = .ok j) :
    j = i ∧ u = uopWord (uopOpc u) 0#4 := by
  unfold decodePlain at h
  split at h
  · next hk => exact ⟨(Except.ok.inj h).symm, by rw [← hk, uopWord_fields]⟩
  · cases h

theorem encode_of_decodeUop_ok {u : BitVec 8} {i : Instr} (h : decodeUop u = .ok i) : encode i = .uop u := by
  have hopc : ∀ {n : Nat}, (uopOpc u).toNat = n → uopOpc u = BitVec.ofNat 4 n := fun hn => by simp [← hn]
  unfold decodeUop at h
  split at h
  case h_10 => cases h
  case h_1 hn | h_2 hn =>
    split at h
    · cases h
      rw [encode, ← hopc hn, uopWord_fields]
    · cases h
  all_goals
    next hn =>
      obtain ⟨rfl, hu⟩ := eq_uopWord_of_decodePlain_ok h
      rw [hu, hopc hn]
      rfl

theorem encode_of_decodeGf_ok {w : BitVec 18} {i : Instr} (h : decodeGf w = .ok i) : encode i = .gf w := by
  have hfsel : ∀ {n : Nat}, (gfFsel w).toNat = n → gfFsel w = BitVec.ofNat 2 n := fun hn => by simp [← hn]
  unfold decodeGf at h
  split at h
  case h_4 => cases h
  all_goals
    next hn =>
      cases h
      rw [encode, ← hfsel hn, gfWord_fields]

theorem encode_of_decode_ok {c : Code} {i : Instr} (h : decode c = .ok i) : encode i = c := by
  cases c with
  | cmd w => cases h; exact encode_decodeCmd w
  | uop u => exact encode_of_decodeUop_ok h
  | gf w => exact encode_of_decodeGf_ok h

theorem wellFormed_of_decode_ok {c : Code} {i : Instr} (h : decode c = .ok i) : wellFormed i = true := by
  cases c with
  | cmd w =>
    cases h
    obtain ⟨-, hd⟩ | ⟨-, hd⟩ := decodeCmd_cases w
    · rw [hd, wellFormed]
    · rw [hd, wellFormed]
  | uop u => exact (decodeUop_ok u i h).2
  | gf w => exact (decodeGf_ok w i h).2

/-! ### Round indices that are not legal (R87) -/

theorem exec_kexp_of_illegal {k : BitVec 4} (h : k.toNat = 0 ∨ 10 < k.toNat) (s : State) :
    exec (.kexp k) s = .fault (.reservedUop s.upc (uopWord 0x1#4 k)) :=
  dif_neg (by omega)

theorem exec_ark_of_illegal {k : BitVec 4} (h : 10 < k.toNat) (s : State) :
    exec (.ark k) s = .fault (.reservedUop s.upc (uopWord 0x2#4 k)) :=
  dif_neg (by omega)

end Sys2Proof.Machine

namespace Sys2Proof.Proofs

open Sys2Proof.Machine

/-- Settles O1: the fields of a word are what it was made of, format by format. -/
theorem decodeOfEncodeIsTheInstruction : Obligations.DecodeOfEncodeIsTheInstruction := by
  unfold Obligations.DecodeOfEncodeIsTheInstruction
  exact fun _ => decode_encode

/-- Settles O2: a word is made of its fields, format by format. -/
theorem encodeOfDecodeIsTheWord : Obligations.EncodeOfDecodeIsTheWord := by
  unfold Obligations.EncodeOfDecodeIsTheWord
  exact fun _ _ h => ⟨wellFormed_of_decode_ok h, encode_of_decode_ok h⟩

/-- Settles O9: `bytes` is injective and undoes `bus`, so `bus` undoes it. -/
theorem bytesAndBusAreInverse : Obligations.BytesAndBusAreInverse := by
  unfold Obligations.BytesAndBusAreInverse
  exact ⟨fun v i => bytes_getElem v i i.isLt, bus_bytes, bytes_bus⟩

/-- Settles O3: each word is that of the instruction named, which is well formed. -/
theorem specWordsDecode : Obligations.SpecWordsDecode := by
  unfold Obligations.SpecWordsDecode
  exact ⟨decode_encode (i := .kexp 3#4) rfl, decode_encode (i := .ark 10#4) rfl, decode_encode (i := .sb) rfl,
    decode_encode (i := .fin) rfl, decode_encode (i := .gfAdd 0x57#8 0x83#8) rfl,
    decode_encode (i := .gfMul 0x57#8 0x83#8) rfl⟩

/-- Settles O5: outside the legal indices both uops raise the fault with their own word. -/
theorem illegalRoundIndexFaults : Obligations.IllegalRoundIndexFaults := by
  unfold Obligations.IllegalRoundIndexFaults
  refine fun k s => ⟨fun hk => ?_, fun hk => ?_⟩
  · rw [exec_kexp_of_illegal hk, Code.uop.inj (encode_kexp k)]
  · rw [exec_ark_of_illegal hk, Code.uop.inj (encode_ark k)]

/-- Settles O12: a valid rsp_data is the bus value of DOUT. -/
theorem responsePortShowsDout : Obligations.ResponsePortShowsDout := by
  unfold Obligations.ResponsePortShowsDout
  intro s i hv
  rw [rspData_of_valid hv, extractLsb'_bus _ i.isLt, Fin.getElem_fin]

end Sys2Proof.Proofs
end

section
/-! SUPPORT. The field unit and the S-boxes (40_field_arithmetic.md R111, R115, R116; 20_memory.md R56, R59): the
product is commutative, each multiple by a matrix constant is a sum of doublings, and SBOX is the affine image of the
inverse. -/

namespace Sys2Proof.Machine

/-! ### The identities of the product (R115, R116) -/

theorem gmul_twoPow_comm : ∀ i j : Fin 8, gmul (BitVec.twoPow 8 i) (BitVec.twoPow 8 j) =
    gmul (BitVec.twoPow 8 j) (BitVec.twoPow 8 i) := by
  decide +kernel

/-- Commutative on the powers of x, and so on the sums of them, factor by factor. -/
theorem gmul_comm (a b : Byte) : gmul a b = gmul b a := by
  refine eq_of_xor_additive (f := fun a => gmul a b) (g := gmul b) (fun x y => gmul_xor_left x y b)
    (gmul_xor_right b) (fun i => ?_) a
  exact eq_of_xor_additive (f := gmul _) (g := fun b => gmul b _) (gmul_xor_right _)
    (fun x y => gmul_xor_left x y _) (gmul_twoPow_comm i) b

/-- Doubling: a shift, and the reduction polynomial where a bit fell out. -/
theorem gmul_two (a : Byte) : gmul a 0x02#8 = (a <<< 1) ^^^ (if a.getLsbD 7 then 0x1B#8 else 0x00#8) := by
  revert a; decide +kernel

theorem gmul_four (a : Byte) : gmul a 0x04#8 = gmul (gmul a 2#8) 2#8 := by
  have h : (0x04#8 : Byte) = gmul 2#8 2#8 := by decide
  rw [h, gmul_assoc]

theorem gmul_eight (a : Byte) : gmul a 0x08#8 = gmul (gmul (gmul a 2#8) 2#8) 2#8 := by
  have h : (0x08#8 : Byte) = gmul 4#8 2#8 := by decide
  rw [h, ← gmul_assoc, gmul_four]

/-! ### The unit's output and the word it stands for (R111) -/

/-- The levels on the unit's inputs are untouched by running the word that stands there. -/
theorem driveGf_of_gfIn {s : State} {fsel : BitVec 2} {a b : Byte} (h : s.gfIn = gfWord fsel a b) :
    driveGf fsel a b s = s := by
  rw [driveGf, ← h]

/-- A field-unit event runs the operation of the word on the inputs, and so changes nothing there. -/
theorem exec_of_run_fieldUnit {s : State} {i : Instr} (he : nextEvent s = .run .fieldUnit i) :
    exec i s = .next s := by
  obtain ⟨-, -, ⟨-, -, hi⟩ | ⟨hsrc, -⟩ | ⟨hsrc, -⟩⟩ := nextEvent_run_cases s _ i he
  · obtain ⟨hf, hwf⟩ := decodeGf_ok _ i hi
    obtain ⟨t, hx⟩ := exec_of_wellFormed i s hwf
    obtain ⟨fsel, a, b, rfl, hword⟩ := exec_gf_next i s t hf hx
    rw [encode_of_decodeGf_ok hi] at hword
    rw [hx, driveGf_of_gfIn (Code.gf.inj hword)]
  · cases hsrc
  · cases hsrc

theorem decodeGf_of_reserved {w : BitVec 18} (h : gfFsel w = 0b11#2) :
    decodeGf w = .error (.reservedGfFunction 0b11#2) := by
  simp [decodeGf, h]

theorem fieldEvent_of_ok {w : BitVec 18} {i : Instr} (h : decodeGf w = .ok i) :
    fieldEvent w = .run .fieldUnit i := by
  simp [fieldEvent, h]

theorem fieldEvent_of_reserved {w : BitVec 18} (h : gfFsel w = 0b11#2) :
    fieldEvent w = .stop (.reservedGfFunction 0b11#2) := by
  simp [fieldEvent, decodeGf_of_reserved h, h]

/-! ### SBOX is the affine image of the inverse (20_memory.md R59) -/

/-- The affine map of R59. -/
def sboxAffine (y : Byte) : Byte :=
  y ^^^ y.rotateLeft 1 ^^^ y.rotateLeft 2 ^^^ y.rotateLeft 3 ^^^ y.rotateLeft 4 ^^^ 0x63#8

/-- The inverse of `sboxAffine`. -/
def sboxAffineInverse (x : Byte) : Byte := x.rotateLeft 1 ^^^ x.rotateLeft 3 ^^^ x.rotateLeft 6 ^^^ 0x05#8

theorem sboxAffine_sboxAffineInverse (x : Byte) : sboxAffine (sboxAffineInverse x) = x := by
  revert x; decide +kernel

/-- The byte whose affine image is SBOX[a]. -/
def sboxPreimage (a : Byte) : Byte := sboxAffineInverse (sbox a)

theorem sbox_eq_sboxAffine (a : Byte) : sbox a = sboxAffine (sboxPreimage a) :=
  (sboxAffine_sboxAffineInverse _).symm

theorem sboxPreimage_zero : sboxPreimage 0#8 = 0#8 := by decide

/-- The table, entry by entry: the preimage is an inverse. -/
theorem gmul_sboxPreimage : ∀ a : Byte, a ≠ 0#8 → gmul a (sboxPreimage a) = 1#8 := by
  decide +kernel

/-- And it is the only one: multiply by it from the left. -/
theorem gmul_eq_one_iff {a : Byte} (ha : a ≠ 0#8) (z : Byte) : gmul a z = 1#8 ↔ z = sboxPreimage a := by
  have hinv := gmul_sboxPreimage a ha
  constructor
  · intro hz
    calc z = gmul (gmul (sboxPreimage a) a) z := by rw [gmul_comm _ a, hinv, gmul_one_left]
      _ = sboxPreimage a := by rw [gmul_assoc, hz, gmul_one_right]
  · rintro rfl
    exact hinv

/-- Injective, by the inverse table, on finitely many bytes. -/
theorem sbox_bijective : Function.Bijective sbox :=
  Finite.injective_iff_bijective.1 (Function.LeftInverse.injective invSbox_sbox)

theorem sbox_invSbox (x : Byte) : sbox (invSbox x) = x := by
  obtain ⟨a, rfl⟩ := sbox_bijective.surjective x
  rw [invSbox_sbox]

theorem sbox_ne_self (a : Byte) : sbox a ≠ a := by
  revert a; decide +kernel

end Sys2Proof.Machine

namespace Sys2Proof.Proofs

open Sys2Proof.Machine

/-- Settles O15: the product is additive, commutative and associative. -/
theorem fieldIdentitiesHold : Obligations.FieldIdentitiesHold := by
  unfold Obligations.FieldIdentitiesHold
  exact fun a b c => ⟨gmul_one_right a, gmul_zero_right a, BitVec.xor_self, gmul_comm a b, gmul_xor_right a b c, rfl,
    gmul_assoc a b c⟩

/-- Settles O16: each constant is a sum of 1, 2, 4 and 8, and multiplication by it the sum of theirs. -/
theorem fieldMultiplesByTheMatrixConstants : Obligations.FieldMultiplesByTheMatrixConstants := by
  unfold Obligations.FieldMultiplesByTheMatrixConstants
  refine fun a => ⟨gmul_two a, ?_, ?_, ?_, ?_, ?_⟩
  · have h : (0x03#8 : Byte) = 2#8 ^^^ 1#8 := rfl
    rw [h, gmul_xor_right, gmul_one_right]
  · have h : (0x09#8 : Byte) = 8#8 ^^^ 1#8 := rfl
    rw [h, gmul_xor_right, gmul_eight, gmul_one_right]
  · have h : (0x0B#8 : Byte) = 8#8 ^^^ 2#8 ^^^ 1#8 := rfl
    rw [h, gmul_xor_right, gmul_xor_right, gmul_eight, gmul_one_right]
  · have h : (0x0D#8 : Byte) = 8#8 ^^^ 4#8 ^^^ 1#8 := rfl
    rw [h, gmul_xor_right, gmul_xor_right, gmul_eight, gmul_four, gmul_one_right]
  · have h : (0x0E#8 : Byte) = 8#8 ^^^ 4#8 ^^^ 2#8 := rfl
    rw [h, gmul_xor_right, gmul_xor_right, gmul_eight, gmul_four]

/-- Settles O17: the unit's answer for each function select, and the levels each operation drives. -/
theorem fieldOperationsCompleteWithTheirResultOnY : Obligations.FieldOperationsCompleteWithTheirResultOnY := by
  unfold Obligations.FieldOperationsCompleteWithTheirResultOnY
  refine ⟨fun s => ?_, fun a b s => ⟨⟨_, rfl, rfl, ?_⟩, ⟨_, rfl, rfl, ?_⟩, ⟨_, rfl, rfl, ?_⟩⟩⟩
  · have hy : ∀ {fsel : BitVec 2}, s.gfIn.extractLsb' 16 2 = fsel → gfY s = gfUnit fsel (gfA s.gfIn) (gfB s.gfIn) :=
      fun hf => hf ▸ rfl
    exact ⟨hy, hy, hy, hy⟩
  · exact (gfY_driveGf 0b00#2 a b s).trans (gfUnit_add a b)
  · exact (gfY_driveGf 0b01#2 a b s).trans (gfUnit_sub a b)
  · exact (gfY_driveGf 0b10#2 a b s).trans (gfUnit_mul a b)

/-- Settles O18: the preimage of SBOX[a] under the affine map is 0 or the inverse of a, and the two tables undo each
other. -/
theorem sboxIsTheAlgebraicPermutation : Obligations.SboxIsTheAlgebraicPermutation := by
  unfold Obligations.SboxIsTheAlgebraicPermutation
  refine ⟨fun a => ⟨sboxPreimage a, ?_, gmul_eq_one_iff, sbox_eq_sboxAffine a⟩, sbox_bijective, invSbox_sbox,
    sbox_ne_self⟩
  rintro rfl
  exact sboxPreimage_zero

end Sys2Proof.Proofs
end

section
/-! SUPPORT. The events and what a step keeps (10_state.md R38, R40; 60_exceptions.md R230, R233;
70_reset_and_hazards.md R260 to R262, R267): the event of each kind of state, the faults, the invariants and the
writers. -/

namespace Sys2Proof.Machine

open Sys2Proof.Claims

/-! ### The event of each kind of state (43_sequencer.md R190) -/

theorem nextEvent_of_rst {s : State} (hr : s.rst = 1#1) : nextEvent s = .reset := by
  simp [nextEvent, hr]

theorem nextEvent_of_wasReset_false {s : State} (hr : s.rst = 0#1) (hw : s.wasReset = false) :
    nextEvent s = .stop .notReset := by
  simp [nextEvent, hr, hw]

theorem nextEvent_of_fieldWaits {s : State} (hr : s.rst = 0#1) (hw : s.wasReset = true)
    (hg : fieldWaits s = true) : nextEvent s = fieldEvent s.gfIn := by
  simp [nextEvent, hr, hw, hg]

theorem nextEvent_of_idle {s : State} (hs : ready s) (hr : s.rst = 0#1) (hb : s.busy = 0#1) :
    nextEvent s = idleEvent s := by
  obtain ⟨hw, hg⟩ := hs
  simp [nextEvent, hr, hw, hg, hb]

theorem nextEvent_of_no_command {s : State} (hs : ready s) (hr : s.rst = 0#1) (hb : s.busy = 0#1)
    (hc : s.cmd = none) : nextEvent s = .idle := by
  rw [nextEvent_of_idle hs hr hb, idleEvent, hc]

theorem idleEvent_ne_stop (s : State) (f : Fault) : idleEvent s ≠ .stop f := by
  unfold idleEvent
  split <;> simp

/-! ### The faults of a step (60_exceptions.md R233) -/

/-- An instruction that runs completes, so a step faults only where its event is a stop. -/
theorem step_eq_fault_iff (s : State) (f : Fault) : step s = .fault f ↔ nextEvent s = .stop f := by
  refine ⟨fun h => ?_, step_of_stop s f⟩
  cases he : nextEvent s with
  | reset => simp [step_of_reset s he] at h
  | idle => simp [step_of_idle s he] at h
  | stop g =>
    rw [step_of_stop s g he] at h
    rw [Host.Outcome.fault.inj h]
  | run src i =>
    obtain ⟨t, hx⟩ := exec_of_wellFormed i s (wellFormed_of_run s src i he)
    simp [step_of_run s src i he, hx] at h

/-- A fetch stops exactly where the micro-program has no uop, since every uop it has decodes. -/
theorem fetchEvent_eq_stop_iff (s : State) (f : Fault) :
    fetchEvent s = .stop f ↔ 50 < s.upc.toNat ∧ f = .upcOutOfRange s.upc := by
  rw [← memRead_program_eq_none_iff s.op]
  cases hu : memRead (programOf s.op) s.upc.toNat with
  | none => simp [fetchEvent_of_none hu, @eq_comm _ f]
  | some u =>
    obtain ⟨i, hi⟩ := program_entry_decodes _ _ u hu
    simp [fetchEvent_of_some hu, uopEvent_of_ok hi]

/-- A word on the field unit's inputs stops the machine exactly where it has the reserved function select. -/
theorem fieldEvent_eq_stop_iff (w : BitVec 18) (f : Fault) :
    fieldEvent w = .stop f ↔ gfFsel w = 0b11#2 ∧ f = .reservedGfFunction 0b11#2 := by
  cases hd : decodeGf w with
  | ok i => simp [fieldEvent_of_ok hd, gfFsel_of_decodeGf_ok w i hd]
  | error e =>
    have h3 := decodeGf_error w e hd
    simp [fieldEvent_of_reserved h3, h3, @eq_comm _ f]

/-- The event of a state is a stop in three cases, which exclude each other. -/
theorem nextEvent_eq_stop_iff (s : State) (f : Fault) : nextEvent s = .stop f ↔
    (s.rst = 0#1 ∧ s.wasReset = false ∧ f = .notReset) ∨
    (s.rst = 0#1 ∧ s.wasReset = true ∧ gfFsel s.gfIn = 0b11#2 ∧ f = .reservedGfFunction 0b11#2) ∨
    (s.rst = 0#1 ∧ s.wasReset = true ∧ s.gfRun = false ∧ gfFsel s.gfIn ≠ 0b11#2 ∧ s.busy = 1#1 ∧
      50 < s.upc.toNat ∧ f = .upcOutOfRange s.upc) := by
  obtain hr | hr := bit_eq_zero_or_one s.rst
  swap
  · simp [nextEvent_of_rst hr, hr]
  cases hw : s.wasReset with
  | false => simp [nextEvent_of_wasReset_false hr hw, hr, @eq_comm _ f]
  | true =>
    cases hg : fieldWaits s with
    | true =>
      have hquiet : ¬ (s.gfRun = false ∧ gfFsel s.gfIn ≠ 0b11#2) := by
        rw [← fieldWaits_eq_false_iff, hg]; simp
      rw [nextEvent_of_fieldWaits hr hw hg, fieldEvent_eq_stop_iff]
      grind
    | false =>
      obtain ⟨hrun, hfsel⟩ := (fieldWaits_eq_false_iff s).1 hg
      obtain hb | hb := bit_eq_zero_or_one s.busy
      · simp [nextEvent_of_idle ⟨hw, hg⟩ hr hb, idleEvent_ne_stop, hfsel, hb]
      · simp [nextEvent_of_busy ⟨hw, hg⟩ hr hb, fetchEvent_eq_stop_iff, hr, hrun, hfsel, hb]

/-- A step that neither faults nor is refused goes on. -/
theorem exists_step_of_no_stop {s : State} (h : ∀ f, nextEvent s ≠ .stop f) : ∃ t, step s = .next t := by
  cases hst : step s with
  | next t => exact ⟨t, rfl⟩
  | fault f => exact absurd ((step_eq_fault_iff s f).1 hst) (h f)
  | refused r => exact absurd hst (step_ne_refused s r)

/-! ### The model's own fields (log entries 6 and 7) -/

/-- A uop leaves the level of rst, the first reset and the field unit's inputs alone. -/
theorem exec_uop_environment {i : Instr} {s t : State} (hf : instrFormat i = .uop) (h : exec i s = .next t) :
    t.rst = s.rst ∧ t.wasReset = s.wasReset ∧ t.gfIn = s.gfIn ∧ t.gfRun = s.gfRun := by
  obtain ⟨-, rfl⟩ | ⟨k, hk, -, rfl⟩ | ⟨-, -, b, rfl⟩ := exec_uop_next i s t hf h
  · exact ⟨rfl, rfl, rfl, rfl⟩
  · exact ⟨rfl, rfl, rfl, rfl⟩
  · exact ⟨rfl, rfl, rfl, rfl⟩

/-- The step of a word on the field unit's inputs only marks it as run. -/
theorem step_of_run_fieldUnit {s : State} {i : Instr} (he : nextEvent s = .run .fieldUnit i) :
    step s = .next (endEvent (retire .fieldUnit s)) := by
  rw [step_of_run s _ i he, exec_of_run_fieldUnit he, mapNext_next]

/-- No step changes the levels on the field unit's inputs, or asks that the word there be run. -/
theorem step_keeps_fieldInputs {s t : State} (h : step s = .next t) :
    t.gfIn = s.gfIn ∧ (t.gfRun = true → s.gfRun = true) := by
  cases stepEffect_of_step h with
  | reset => simp
  | idle => simp
  | accept => simp
  | uop i u he hf hb hx =>
    obtain ⟨-, -, hin, hrun⟩ := exec_uop_environment hf hx
    simp [hin, hrun]
  | field i fsel a b he =>
    rw [step_of_run_fieldUnit he] at h
    rw [← Host.Outcome.next.inj h]
    simp

/-- Once reset, a core stays so. -/
theorem step_keeps_wasReset {s t : State} (hw : s.wasReset = true) (h : step s = .next t) : t.wasReset = true := by
  cases stepEffect_of_step h with
  | uop i u he hf hb hx =>
    obtain ⟨-, hreset, -, -⟩ := exec_uop_environment hf hx
    simp [hreset, hw]
  | _ => simp [hw]

theorem step_keeps_ready {s t : State} (hs : ready s) (h : step s = .next t) : ready t := by
  obtain ⟨hw, hg⟩ := hs
  obtain ⟨hrun, hfsel⟩ := (fieldWaits_eq_false_iff s).1 hg
  obtain ⟨hin, hnew⟩ := step_keeps_fieldInputs h
  refine ⟨step_keeps_wasReset hw h, (fieldWaits_eq_false_iff t).2 ⟨?_, hin ▸ hfsel⟩⟩
  exact Bool.eq_false_iff.2 fun ht => by simp [hnew ht] at hrun

/-! ### The control invariant (10_state.md R40 (a) to (c)) -/

/-- R40 (a): a uop runs only while BUSY = 1, so only FIN, which clears it, can present a result. -/
theorem step_keeps_responseOnlyIdle {s t : State} (hs : responseOnlyIdle s) (h : step s = .next t) :
    responseOnlyIdle t := by
  cases stepEffect_of_step h with
  | reset => simp [responseOnlyIdle]
  | idle => simpa [responseOnlyIdle] using hs
  | accept => simp [responseOnlyIdle]
  | field => simpa [responseOnlyIdle] using hs
  | uop i u he hf hb hx =>
    by_cases hi : i = .fin
    · subst hi
      cases hx
      simp [responseOnlyIdle]
    · obtain ⟨-, hbusy, hrspv, -⟩ := exec_uop_control hf hi hx
      simpa [responseOnlyIdle, hbusy, hrspv] using hs

/-- R40 (b): only reset and FIN clear BUSY, and both clear UPC. -/
theorem step_keeps_idleAtStart {s t : State} (hs : idleAtStart s) (h : step s = .next t) : idleAtStart t := by
  cases stepEffect_of_step h with
  | reset => simp [idleAtStart]
  | idle => simpa [idleAtStart] using hs
  | accept => simp [idleAtStart]
  | field => simpa [idleAtStart] using hs
  | uop i u he hf hb hx =>
    by_cases hi : i = .fin
    · subst hi
      cases hx
      simp [idleAtStart]
    · obtain ⟨-, hbusy, -⟩ := exec_uop_control hf hi hx
      simp [idleAtStart, hbusy, hb]

theorem step_keeps_controlInvariant {s t : State} (hs : ControlInvariant s) (h : step s = .next t) :
    ControlInvariant t := by
  obtain ⟨hresponse, hidle, hupc⟩ := hs
  exact ⟨step_keeps_responseOnlyIdle hresponse h, step_keeps_idleAtStart hidle h, step_keeps_upcInRange hupc h⟩

/-! ### Progress (60_exceptions.md R230) -/

/-- None of the three stops is possible in a good state. -/
theorem exists_step_of_good {s : State} (hs : ready s) (hinv : ControlInvariant s) : ∃ t, step s = .next t := by
  obtain ⟨hw, hg⟩ := hs
  obtain ⟨-, hfsel⟩ := (fieldWaits_eq_false_iff s).1 hg
  obtain ⟨-, -, hupc⟩ := hinv
  refine exists_step_of_no_stop fun f he => ?_
  obtain ⟨-, hreset, -⟩ | ⟨-, -, h3, -⟩ | ⟨-, -, -, -, -, hrange, -⟩ := (nextEvent_eq_stop_iff s f).1 he
  · simp [hw] at hreset
  · exact hfsel h3
  · exact absurd hrange (not_lt.2 hupc)

/-- A predicate that promises a step and is kept by it promises a run of any length. -/
theorem exists_core_run {P : State → Prop} (hstep : ∀ s, P s → ∃ t, step s = .next t ∧ P t) (n : Nat) {s : State}
    (hs : P s) : ∃ t, core.run n s = .next t := by
  induction n generalizing s with
  | zero => exact ⟨s, rfl⟩
  | succ n ih =>
    obtain ⟨u, hu, hP⟩ := hstep s hs
    obtain ⟨t, ht⟩ := ih hP
    exact ⟨t, by rw [core_run_succ, hu]; exact ht⟩

theorem step_of_good {s : State} (hs : ready s ∧ ControlInvariant s) :
    ∃ t, step s = .next t ∧ ready t ∧ ControlInvariant t := by
  obtain ⟨hready, hinv⟩ := hs
  obtain ⟨t, ht⟩ := exists_step_of_good hready hinv
  exact ⟨t, ht, step_keeps_ready hready ht, step_keeps_controlInvariant hinv ht⟩

/-! ### What waits on the ports (70_reset_and_hazards.md R267) -/

/-- A presented command leaves the ports by its accept or by a withdrawal only. -/
theorem step_keeps_pending {s t : State} {c : Command} (hc : s.cmd = some c)
    (hw : s.script.head? ≠ some .withdraw) (ha : ¬ isAccept (nextEvent s)) (h : step s = .next t) :
    t.cmd = some c := by
  cases stepEffect_of_step h with
  | reset => exact endEvent_cmd_of_some _ c hc hw
  | idle => exact endEvent_cmd_of_some _ c hc hw
  | accept _ he => exact absurd ⟨_, he⟩ ha
  | field => exact endEvent_cmd_of_some _ c hc hw
  | uop i u he hf hb hx =>
    obtain ⟨hcmd, hscript⟩ := exec_uop_ports hf hx
    exact endEvent_cmd_of_some u c (hcmd.trans hc) (hscript ▸ hw)

/-! ### The writers (10_state.md R38) -/

/-- The uops that are neither KEXP nor FIN are the round uops. -/
theorem writesState_of_uop {i : Instr} (hf : instrFormat i = .uop) (hfin : i ≠ .fin) (hkexp : ∀ k, i ≠ .kexp k) :
    writesState i := by
  cases i with
  | kexp k => exact absurd rfl (hkexp k)
  | fin => exact absurd rfl hfin
  | encrypt | decrypt | gfAdd | gfSub | gfMul => cases hf
  | _ => trivial

/-- An entry of the round-key file that KEXP k does not name stays. -/
theorem eq_of_set_getElem_ne {rk : RoundKeys} {k : Nat} (hk : k < 11) {b : Block} {j : Fin 11}
    (h : (rk.set k b)[j] ≠ rk[j]) : k = j.val := by
  by_contra hne
  exact h (Vector.getElem_set_ne hk j.isLt hne)

end Sys2Proof.Machine

namespace Sys2Proof.Proofs

open Sys2Proof.Machine Sys2Proof.Claims

/-- Settles O54: each of R40 (a) to (c), effect by effect. -/
theorem everyStepKeepsTheControlInvariant : Obligations.EveryStepKeepsTheControlInvariant := by
  unfold Obligations.EveryStepKeepsTheControlInvariant
  exact fun _ _ => step_keeps_controlInvariant

/-- Settles O53: a good state has none of the three stops, and its step keeps what makes it good. -/
theorem theCoreNeverFaults : Obligations.TheCoreNeverFaults := by
  unfold Obligations.TheCoreNeverFaults
  refine ⟨fun s hs hinv => step_of_good ⟨hs, hinv⟩, fun moves n => ?_⟩
  refine exists_core_run (fun _ => step_of_good) n ⟨?_, ?_, ?_, ?_⟩
  · simp [ready, fieldWaits, gfFsel, State.reset]
  · simp [responseOnlyIdle, State.reset]
  · simp [idleAtStart, State.reset]
  · simp [upcInRange, State.reset]

/-- Settles O52: a step faults where its event is a stop, and those are the three cases. -/
theorem stepFaultsOnlyAsListed : Obligations.StepFaultsOnlyAsListed := by
  unfold Obligations.StepFaultsOnlyAsListed
  exact fun s f => (step_eq_fault_iff s f).trans (nextEvent_eq_stop_iff s f)

/-- Settles O7: the function select picks the operation; a step that runs a word on the inputs leaves it there. -/
theorem fieldWordsDecode : Obligations.FieldWordsDecode := by
  unfold Obligations.FieldWordsDecode
  refine ⟨fun w => ⟨fun h => ?_, fun h => ?_, fun h => ?_, fieldEvent_of_reserved⟩, fun s t => step_keeps_fieldInputs⟩
  · have hf : gfFsel w = 0b00#2 := h
    simp [decode, decodeGf, hf, gfA, gfB]
  · have hf : gfFsel w = 0b01#2 := h
    simp [decode, decodeGf, hf, gfA, gfB]
  · have hf : gfFsel w = 0b10#2 := h
    simp [decode, decodeGf, hf, gfA, gfB]

/-- Settles O57: the writers of each register, effect by effect. -/
theorem onlyTheListedWritersWrite : Obligations.OnlyTheListedWritersWrite := by
  unfold Obligations.OnlyTheListedWritersWrite
  intro s t h
  cases stepEffect_of_step h with
  | reset he => simp [he]
  | idle => simp
  | field => simp
  | accept c he =>
    have ha : isAccept (nextEvent s) := ⟨_, he⟩
    refine ⟨fun _ => .inl ha, fun _ => .inl ha, fun _ => .inl ha, fun _ => .inl ha, fun _ => .inl ha, fun _ => ha,
      fun k hk hne => ?_, by simp⟩
    simp only [endEvent_rk, retire_rk, accept_rk] at hne
    exact absurd (eq_of_set_getElem_ne _ hne) hk.ne
  | uop i u he hf hb hx =>
    have hrun : ∃ j, nextEvent s = .run .microProgram j := ⟨i, he⟩
    obtain ⟨rfl, rfl⟩ | ⟨k, hk, rfl, rfl⟩ | ⟨hfin, hkexp, b, rfl⟩ := exec_uop_next i s u hf hx
    · simp [he]
    · refine ⟨by simp, by simp, by simp, fun _ => .inr (.inl hrun), by simp, fun hne => ?_, fun j _ hne => ?_, by simp⟩
      · simp only [endEvent_rk, advance_rk, writeRoundKey_rk] at hne
        have h0 : k.toNat = 0 := eq_of_set_getElem_ne (j := 0) _ hne
        omega
      · simp only [endEvent_rk, advance_rk, writeRoundKey_rk] at hne
        rw [he, ← eq_of_set_getElem_ne _ hne]
        simp
    · have hstate : ∃ j, writesState j ∧ nextEvent s = .run .microProgram j :=
        ⟨i, writesState_of_uop hf hfin hkexp, he⟩
      simp [hrun, hstate]

/-- Settles O58: the pending command waits through every event but its accept. -/
theorem pendingPayloadIsStable : Obligations.PendingPayloadIsStable := by
  unfold Obligations.PendingPayloadIsStable
  intro s t c hc h
  by_cases ha : isAccept (nextEvent s)
  · exact .inr (.inl ha)
  by_cases hw : s.script.head? = some .withdraw
  · exact .inr (.inr hw)
  exact .inl (step_keeps_pending hc hw ha h)

end Sys2Proof.Proofs
end

section
/-! SUPPORT. The key schedule along a run (42_key_schedule.md R174 to R176; 10_state.md R40 (d)): how far the
round-key file holds the schedule of a key, what a uop does to STATE and RK, and the source's word recurrence. -/

namespace Sys2Proof.Machine

open Sys2Proof.Claims

/-! ### How far the round-key file holds the schedule (R175) -/

/-- RK[0] to RK[n] are the round keys 0 to n of `key`. -/
def ScheduleUpTo (key : Block) (n : Nat) (rk : RoundKeys) : Prop :=
  ∀ (k : Nat) (h : k < 11), k ≤ n → rk[k] = roundKey key k (Nat.le_of_lt_succ h)

theorem scheduleUpTo_zero_iff (key : Block) (rk : RoundKeys) : ScheduleUpTo key 0 rk ↔ rk[0] = key := by
  constructor
  · exact fun h => h 0 (by decide) le_rfl
  · intro h k hk hk0
    obtain rfl : k = 0 := by omega
    exact h

/-- Writing round key n + 1 from RK[n] extends the schedule by one. -/
theorem ScheduleUpTo.set {key : Block} {n : Nat} {rk : RoundKeys} (hs : ScheduleUpTo key n rk)
    (h : 1 ≤ n + 1 ∧ n + 1 ≤ 10) :
    ScheduleUpTo key (n + 1) (rk.set (n + 1) (nextRoundKey (rk[n]'(by omega)) (n + 1) h) (by omega)) := by
  intro k hk hkn
  obtain rfl | hlt := hkn.eq_or_lt
  · rw [Vector.getElem_set_self, hs n (by omega) le_rfl, roundKey_succ]
  · rw [Vector.getElem_set_ne (by omega) hk hlt.ne']
    exact hs k hk (by omega)

/-- There is no round key above 10. -/
theorem ScheduleUpTo.of_ten_le {key : Block} {n m : Nat} {rk : RoundKeys} (hs : ScheduleUpTo key n rk)
    (hn : 10 ≤ n) : ScheduleUpTo key m rk :=
  fun k hk _ => hs k hk (by omega)

theorem ScheduleUpTo.eq_generateSubkeys {key : Block} {rk : RoundKeys} (hs : ScheduleUpTo key 10 rk) :
    rk = generateSubkeys key := by
  ext1 k hk
  rw [generateSubkeys_getElem, hs k hk (by omega)]

theorem scheduleInvariant_iff (s : State) :
    ScheduleInvariant s ↔ (s.busy = 1#1 → ScheduleUpTo s.rk[0] s.upc.toNat s.rk) := by
  refine imp_congr_right fun _ => ⟨fun h k hk hle => ?_, fun h k hle => ?_⟩
  · exact (h ⟨k, hk⟩ hle).trans (generateSubkeys_getElem _ k hk)
  · exact (h k k.isLt hle).trans (generateSubkeys_getElem _ k k.isLt).symm

/-! ### Where KEXP stands in the micro-programs (43_sequencer.md R197, R198) -/

/-- KEXP k is the word at index k - 1 of both micro-programs, and at no other. -/
theorem program_kexp_word_index : ∀ (op : BitVec 1) (n : Fin 51) (k : BitVec 4),
    memRead (programOf op) n = some (uopWord 0x1#4 k) ↔ n.val + 1 = k.toNat ∧ k.toNat ≤ 10 := by
  decide +kernel

theorem eq_kexp_iff_of_run {s : State} {i : Instr} (he : nextEvent s = .run .microProgram i) (k : BitVec 4) :
    i = .kexp k ↔ s.upc.toNat + 1 = k.toNat ∧ k.toNat ≤ 10 := by
  obtain ⟨hle, -⟩ := upc_of_run_microProgram he
  obtain ⟨-, -, ⟨hsrc, -⟩ | ⟨-, -, -, u, hu, hi⟩ | ⟨hsrc, -⟩⟩ := nextEvent_run_cases s _ i he
  · cases hsrc
  · have hindex := program_kexp_word_index s.op ⟨s.upc.toNat, by omega⟩ k
    rw [hu, Option.some.injEq] at hindex
    rw [← hindex]
    constructor
    · rintro rfl
      exact (Code.uop.inj (encode_of_decodeUop_ok hi)).symm
    · intro hword
      obtain ⟨hk1, hk10⟩ := hindex.1 hword
      rw [hword, decodeUop_kexp_word k ⟨by omega, hk10⟩] at hi
      exact (Except.ok.inj hi).symm
  · cases hsrc

/-! ### The schedule invariant (10_state.md R40 (d)) -/

/-- The uop at UPC extends the schedule to UPC + 1: below index 10 it is KEXP UPC + 1, and from there on all of it is
there. -/
theorem exec_uop_extends_schedule {s t : State} {i : Instr} {key : Block} (he : nextEvent s = .run .microProgram i)
    (hx : exec i s = .next t) (hs : ScheduleUpTo key s.upc.toNat s.rk) :
    ScheduleUpTo key (s.upc.toNat + 1) t.rk := by
  have hkexp := eq_kexp_iff_of_run he
  obtain ⟨rfl, rfl⟩ | ⟨k, hk, rfl, rfl⟩ | ⟨-, hne, b, rfl⟩ := exec_uop_next i s t (instrFormat_of_run s _ i he) hx
  · have hfin := (upc_of_run_microProgram he).2.1 rfl
    exact hs.of_ten_le (by omega)
  · obtain ⟨hupc, -⟩ := (hkexp k).1 rfl
    simp only [advance_rk, writeRoundKey_rk, ← hupc, Nat.add_sub_cancel]
    exact hs.set _
  · refine hs.of_ten_le ?_
    by_contra hlt
    refine hne (BitVec.ofNat 4 (s.upc.toNat + 1)) ((hkexp _).2 ?_)
    simp only [BitVec.toNat_ofNat]
    omega

/-- No uop writes RK[0]. -/
theorem exec_uop_keeps_roundKey_zero {i : Instr} {s t : State} (hf : instrFormat i = .uop)
    (h : exec i s = .next t) : t.rk[0] = s.rk[0] := by
  obtain ⟨-, rfl⟩ | ⟨k, hk, -, rfl⟩ | ⟨-, -, b, rfl⟩ := exec_uop_next i s t hf h
  · rfl
  · have hk11 : k.toNat < 11 := by omega
    exact Vector.getElem_set_ne hk11 (by decide) (by omega)
  · rfl

theorem step_keeps_scheduleInvariant {s t : State} (hs : ScheduleInvariant s) (h : step s = .next t) :
    ScheduleInvariant t := by
  rw [scheduleInvariant_iff] at hs ⊢
  cases stepEffect_of_step h with
  | reset => simp
  | idle => simpa using hs
  | accept => simp [scheduleUpTo_zero_iff]
  | field => simpa using hs
  | uop i u he hf hb hx =>
    obtain ⟨hle, hfin⟩ := upc_of_run_microProgram he
    by_cases hi : i = .fin
    · subst hi
      cases hx
      simp
    · have hlt : s.upc.toNat < 50 := by have := mt hfin.2 hi; omega
      obtain ⟨-, -, -, -, hadv⟩ := exec_uop_control hf hi hx
      intro _
      rw [endEvent_upc, hadv, toNat_upc_succ hlt, endEvent_rk, exec_uop_keeps_roundKey_zero hf hx]
      exact exec_uop_extends_schedule he hx (hs hb)

/-- Only an accept writes RK[0]. -/
theorem step_keeps_roundKey_zero {s t : State} (h : step s = .next t) (ha : ¬ isAccept (nextEvent s)) :
    t.rk[0] = s.rk[0] := by
  cases stepEffect_of_step h with
  | accept _ he => exact absurd ⟨_, he⟩ ha
  | uop i u he hf hb hx => rw [endEvent_rk, exec_uop_keeps_roundKey_zero hf hx]
  | _ => simp

/-! ### What a uop does to STATE and RK -/

/-- STATE and the round-key file: all that the uops before FIN read and write, but for UPC. -/
abbrev Datapath := Block × RoundKeys

/-- The function of a uop on STATE and RK; `exec_uop_datapath` ties it to `exec`. -/
def uopDatapath (d : Datapath) : Instr → Datapath
  | .kexp k =>
    if h : 1 ≤ k.toNat ∧ k.toNat ≤ 10 then
      (d.1, d.2.set k.toNat (nextRoundKey (d.2[k.toNat - 1]'(by omega)) k.toNat h) (by omega))
    else d
  | .ark k => if h : k.toNat ≤ 10 then (addRoundKey d.1 (d.2[k.toNat]'(by omega)), d.2) else d
  | .sb => (subBytes d.1, d.2)
  | .isb => (invSubBytes d.1, d.2)
  | .sr => (shiftRows d.1, d.2)
  | .isr => (invShiftRows d.1, d.2)
  | .mc => (mixColumns d.1, d.2)
  | .imc => (invMixColumns d.1, d.2)
  | _ => d

/-- STATE and RK written together. -/
def writeDatapath (d : Datapath) (s : State) : State := { s with state := d.1, rk := d.2 }

/-- The uops that compute: all legal ones but FIN. -/
def IsDatapathUop (i : Instr) : Prop := instrFormat i = .uop ∧ wellFormed i = true ∧ i ≠ .fin

theorem exec_uop_datapath {i : Instr} (hi : IsDatapathUop i) (s : State) :
    exec i s = .next (advance (writeDatapath (uopDatapath (s.state, s.rk) i) s)) := by
  obtain ⟨hf, hwf, hne⟩ := hi
  cases i with
  | kexp k =>
    have hk : 1 ≤ k.toNat ∧ k.toNat ≤ 10 := by simpa [wellFormed] using hwf
    rw [exec, execKexp_of_legal k s hk, uopDatapath, dif_pos hk]
    rfl
  | ark k =>
    have hk : k.toNat ≤ 10 := by simpa [wellFormed] using hwf
    rw [exec, execArk_of_legal k s hk, uopDatapath, dif_pos hk]
    rfl
  | fin => exact absurd rfl hne
  | encrypt | decrypt | gfAdd | gfSub | gfMul => cases hf
  | _ => rfl

theorem execAll_cons_of_next {i : Instr} {s t : State} (h : exec i s = .next t) (l : List Instr) :
    execAll (i :: l) s = execAll l t := by
  simp [execAll, h]

/-- A list of computing uops completes, and folds their functions over STATE and RK. -/
theorem execAll_datapath {l : List Instr} (hl : ∀ i ∈ l, IsDatapathUop i) (s : State) :
    ∃ t, execAll l s = .next t ∧ (t.state, t.rk) = l.foldl uopDatapath (s.state, s.rk) := by
  induction l generalizing s with
  | nil => exact ⟨s, rfl, rfl⟩
  | cons i l ih =>
    obtain ⟨hi, hl⟩ := List.forall_mem_cons.1 hl
    rw [execAll_cons_of_next (exec_uop_datapath hi s)]
    exact ih hl _

/-! ### The ten KEXP uops (R175) -/

theorem uopDatapath_kexp (d : Datapath) (n : Nat) (h : 1 ≤ n + 1 ∧ n + 1 ≤ 10) :
    uopDatapath d (.kexp (BitVec.ofNat 4 (n + 1))) =
      (d.1, d.2.set (n + 1) (nextRoundKey (d.2[n]'(by omega)) (n + 1) h) (by omega)) := by
  have hk : (BitVec.ofNat 4 (n + 1)).toNat = n + 1 := by simp; omega
  simp [uopDatapath, hk, h]

theorem expand_kexpand :
    expand .kexpand = (List.range' 1 10).map fun k => .kexp (BitVec.ofNat 4 k) := rfl

/-- KEXP n + 1 to KEXP n + m extend the schedule from n to n + m, and leave STATE alone. -/
theorem foldl_kexp_extends_schedule {key : Block} (m : Nat) {n : Nat} (h : n + m ≤ 10) {d : Datapath}
    (hd : ScheduleUpTo key n d.2) :
    (((List.range' (n + 1) m).map fun k => .kexp (BitVec.ofNat 4 k)).foldl uopDatapath d).1 = d.1 ∧
    ScheduleUpTo key (n + m)
      (((List.range' (n + 1) m).map fun k => .kexp (BitVec.ofNat 4 k)).foldl uopDatapath d).2 := by
  induction m generalizing n d with
  | zero => exact ⟨rfl, hd⟩
  | succ m ih =>
    have hk : 1 ≤ n + 1 ∧ n + 1 ≤ 10 := by omega
    have hlen : n + (m + 1) = n + 1 + m := by omega
    rw [List.range'_succ, List.map_cons, List.foldl_cons, uopDatapath_kexp d n hk, hlen]
    exact ih (d := (d.1, _)) (by omega) (hd.set hk)

/-- From the key in RK[0], KEXPAND leaves its whole schedule in the round-key file. -/
theorem foldl_kexpand (b : Block) (rk : RoundKeys) :
    (expand .kexpand).foldl uopDatapath (b, rk) = (b, generateSubkeys rk[0]) := by
  obtain ⟨hstate, hrk⟩ := foldl_kexp_extends_schedule 10 (n := 0) le_rfl (d := (b, rk))
    ((scheduleUpTo_zero_iff rk[0] rk).2 rfl)
  rw [expand_kexpand]
  exact Prod.ext hstate hrk.eq_generateSubkeys

theorem kexpand_datapathUops : ∀ i ∈ expand .kexpand, IsDatapathUop i := by
  unfold IsDatapathUop
  decide

/-- Behind an accepted command, KEXPAND completes with the schedule of the command's key. -/
theorem execAll_command_kexpand {i : Instr} {op : BitVec 1} {key data : Block} {s : State}
    (hi : exec i s = .next (accept op key data s)) :
    ∃ t, execAll (i :: expand .kexpand) s = .next t ∧ t.rk = generateSubkeys key := by
  obtain ⟨t, ht, hd⟩ := execAll_datapath kexpand_datapathUops (accept op key data s)
  rw [foldl_kexpand, accept_rk, Vector.getElem_set_self] at hd
  exact ⟨t, (execAll_cons_of_next hi _).trans ht, (Prod.ext_iff.1 hd).2⟩

/-! ### The source's word recurrence (R174, R175) -/

/-- Word i = 4k + j of the schedule of a key is word j of its round key k (10_state.md R33). -/
theorem scheduleSlice_generateSubkeys (key : Block) {i k : Nat} (hi : i < 44) (hk : k ≤ 10) (j : Fin 4)
    (h : i = 4 * k + j.val) : scheduleSlice (generateSubkeys key) ⟨i, hi⟩ = column (roundKey key k hk) j := by
  subst h
  exact (scheduleSlice_word _ ⟨k, Nat.lt_succ_of_le hk⟩ j).trans
    (congrArg (column · j) (generateSubkeys_getElem key k _))

/-- W[n + 4] from W[n] and W[n + 3] at the start of a round key, n = 4k: through the g-function. -/
theorem scheduleSlice_add_four_zero (key : Block) (k : Nat) (h : k + 1 ≤ 10) :
    scheduleSlice (generateSubkeys key) ⟨4 * k + 4, by omega⟩ =
      xorBytes (scheduleSlice (generateSubkeys key) ⟨4 * k, by omega⟩)
        (gFunction (scheduleSlice (generateSubkeys key) ⟨4 * k + 3, by omega⟩) (k + 1) ⟨by omega, h⟩) := by
  have hk : k ≤ 10 := by omega
  rw [scheduleSlice_generateSubkeys key (i := 4 * k + 4) _ h 0 rfl,
    scheduleSlice_generateSubkeys key (i := 4 * k) _ hk 0 rfl,
    scheduleSlice_generateSubkeys key (i := 4 * k + 3) _ hk 3 rfl, roundKey_succ, column_nextRoundKey_zero]

/-- W[n + 4] from W[n] and W[n + 3] within a round key, n = 4k + j + 1: their sum. -/
theorem scheduleSlice_add_four_succ (key : Block) (k : Nat) (h : k + 1 ≤ 10) (j : Fin 3) :
    scheduleSlice (generateSubkeys key) ⟨4 * k + (j.val + 1) + 4, by omega⟩ =
      xorBytes (scheduleSlice (generateSubkeys key) ⟨4 * k + (j.val + 1), by omega⟩)
        (scheduleSlice (generateSubkeys key) ⟨4 * k + (j.val + 1) + 3, by omega⟩) := by
  rw [scheduleSlice_generateSubkeys key _ h j.succ (by simp; omega),
    scheduleSlice_generateSubkeys key _ (by omega : k ≤ 10) j.succ (by simp),
    scheduleSlice_generateSubkeys key _ h j.castSucc (by simp; omega), roundKey_succ, column_nextRoundKey_succ]

/-- The word that the recurrence adds to W[n] (R174): W[n + 3], through the g-function where n + 4 is a multiple
of 4. -/
def scheduleAddend (key : Block) (n : Nat) (h : n + 4 < 44) : Word :=
  let w := scheduleSlice (generateSubkeys key) ⟨n + 3, by omega⟩
  if h4 : (n + 4) % 4 = 0 then gFunction w ((n + 4) / 4) ⟨by omega, by omega⟩ else w

theorem scheduleSlice_add_four (key : Block) (n : Nat) (h : n + 4 < 44) :
    scheduleSlice (generateSubkeys key) ⟨n + 4, h⟩ =
      xorBytes (scheduleSlice (generateSubkeys key) ⟨n, by omega⟩) (scheduleAddend key n h) := by
  unfold scheduleAddend
  split
  · next h4 =>
    obtain ⟨k, rfl⟩ : ∃ k, n = 4 * k := ⟨n / 4, by omega⟩
    have hk : (4 * k + 4) / 4 = k + 1 := by omega
    simp only [scheduleSlice_add_four_zero key k (by omega), hk]
  · obtain ⟨k, j, rfl⟩ : ∃ (k : Nat) (j : Fin 3), n = 4 * k + (j.val + 1) :=
      ⟨n / 4, ⟨n % 4 - 1, by omega⟩, by simp; omega⟩
    exact scheduleSlice_add_four_succ key k (by omega) j

/-- The window at n holds the words n to n + 3 of the schedule. -/
theorem scheduleWindow_getElem (key : Block) (n : Nat) (h : n ≤ 40) (j : Nat) (hj : j < 4) :
    (scheduleWindow key n h)[j] = scheduleSlice (generateSubkeys key) ⟨n + j, by omega⟩ := by
  induction n generalizing j with
  | zero =>
    rw [scheduleSlice_generateSubkeys key _ (Nat.zero_le 10) ⟨j, hj⟩ rfl]
    interval_cases j <;> rfl
  | succ n ih =>
    have hn : n ≤ 40 := by omega
    interval_cases j
    · exact ih hn 1 (by decide)
    · exact ih hn 2 (by decide)
    · exact ih hn 3 (by decide)
    · have hzero : (scheduleWindow key n hn)[0] = scheduleSlice (generateSubkeys key) ⟨n, by omega⟩ :=
        ih hn 0 (by decide)
      rw [scheduleSlice_add_four key n (by omega), scheduleAddend, ← hzero, ← ih hn 3 (by decide)]
      rfl

theorem scheduleWord_eq (key : Block) (i : Fin 44) : scheduleWord key i = scheduleSlice (generateSubkeys key) i := by
  unfold scheduleWord
  split
  · next h => exact (scheduleSlice_generateSubkeys key i.isLt (Nat.zero_le 10) ⟨i, h⟩ (Nat.zero_add _).symm).symm
  · next h =>
    have hi : i.val - 3 + 3 = i.val := by omega
    rw [scheduleWindow_getElem]
    simp only [hi]

end Sys2Proof.Machine

namespace Sys2Proof.Proofs

open Sys2Proof.Machine Sys2Proof.Claims

/-- Settles O55: the uop at UPC extends the schedule by one round key until it is whole. -/
theorem everyStepKeepsTheScheduleInvariant : Obligations.EveryStepKeepsTheScheduleInvariant := by
  unfold Obligations.EveryStepKeepsTheScheduleInvariant
  exact fun _ _ => step_keeps_scheduleInvariant

/-- Settles O56: after reset the core is idle, at UPC = 0, and presents nothing. -/
theorem resetMeetsTheInvariants : Obligations.ResetMeetsTheInvariants := by
  unfold Obligations.ResetMeetsTheInvariants
  refine ⟨⟨?_, ?_, ?_⟩, ?_⟩
  · simp [responseOnlyIdle, State.reset]
  · simp [idleAtStart, State.reset]
  · simp [upcInRange, State.reset]
  · simp [ScheduleInvariant, State.reset]

/-- Settles O34: RK[0] is written by accept alone, since KEXP writes RK[1] to RK[10]. -/
theorem roundKeyZeroIsTheKey : Obligations.RoundKeyZeroIsTheKey := by
  unfold Obligations.RoundKeyZeroIsTheKey
  exact ⟨fun key => generateSubkeys_getElem key 0 (by decide), fun _ _ => step_keeps_roundKey_zero⟩

/-- Settles O32: the accept puts the key in RK[0], and the ten KEXPs expand it. -/
theorem scheduleAfterKeyExpansion : Obligations.ScheduleAfterKeyExpansion := by
  unfold Obligations.ScheduleAfterKeyExpansion
  exact fun s key data hb hr => ⟨execAll_command_kexpand (command_of_ready 0#1 key data s hb hr),
    execAll_command_kexpand (command_of_ready 1#1 key data s hb hr)⟩

/-- Settles O33: the window of the recurrence holds the words of the schedule at every n. -/
theorem scheduleFollowsTheWordRecurrence : Obligations.ScheduleFollowsTheWordRecurrence := by
  unfold Obligations.ScheduleFollowsTheWordRecurrence
  exact fun key i => (scheduleWord_eq key i).symm

end Sys2Proof.Proofs
end

section
/-! SUPPORT. Steps of one kind, reset and several cores (43_sequencer.md R190; 70_reset_and_hazards.md R260 to R262;
60_exceptions.md R240): what is observed of an event, what a core without a running command can do, and what an event
of a system is. -/

namespace Sys2Proof.Machine

open Sys2Proof.Claims

/-! ### The observation of an event (00_scope.md R19) -/

theorem observe_of_accept {s : State} {i : Instr} {c : Command} (he : nextEvent s = .run .commandPort i)
    (hc : s.cmd = some c) (t : State) : observe s t = [.accepted c] := by
  simp [observe, he, hc]

theorem observe_of_fin {s : State} (he : nextEvent s = .run .microProgram .fin) (t : State) :
    observe s t = [.response t.dout] := by
  simp [observe, he]

theorem observe_eq_nil {s : State} (ha : ¬ isAccept (nextEvent s)) (hf : nextEvent s ≠ .run .microProgram .fin)
    (t : State) : observe s t = [] := by
  unfold observe
  split
  · next he _ => exact absurd ⟨_, he⟩ ha
  · next he => exact absurd he hf
  · rfl

theorem observations_succ_of_next {s t : State} (h : step s = .next t) (n : Nat) :
    observations (n + 1) s = observe s t ++ observations n t := by
  simp [observations, h]

theorem observations_succ_of_fault {s : State} {f : Fault} (h : step s = .fault f) (n : Nat) :
    observations (n + 1) s = [] := by
  simp [observations, h]

/-! ### Reset (70_reset_and_hazards.md R260) -/

theorem step_of_rst {s : State} (hr : s.rst = 1#1) : step s = .next (endEvent (resetEvent s)) :=
  step_of_reset s (nextEvent_of_rst hr)

theorem cmdReady_of_rst {s : State} (hr : s.rst = 1#1) : cmdReady s = 0#1 := by
  rw [← bit_ne_one_iff, ne_eq, cmdReady_eq_one_iff, hr]
  simp

/-- A core with no command running, or in reset, either accepts a command or does nothing that is observed, and ends
idle; a result is presented afterwards only if one was, and no reset came. -/
theorem step_of_not_running {s t : State} (hq : s.rst = 1#1 ∨ s.busy = 0#1) (h : step s = .next t) :
    (∃ c, observe s t = [.accepted c]) ∨
    (observe s t = [] ∧ t.busy = 0#1 ∧ (s.rst = 1#1 ∨ s.rspv = 0#1 → t.rspv = 0#1)) := by
  have hrst : nextEvent s ≠ .reset → s.rst ≠ 1#1 := mt nextEvent_of_rst
  cases stepEffect_of_step h with
  | reset he => exact .inr ⟨observe_eq_nil (by simp [isAccept, he]) (by simp [he]) _, by simp⟩
  | accept c he hc => exact .inl ⟨c, observe_of_accept he hc _⟩
  | uop i u he hf hb => simp [hb, hrst (by simp [he])] at hq
  | idle he =>
    have hr := hrst (by simp [he])
    exact .inr ⟨observe_eq_nil (by simp [isAccept, he]) (by simp [he]) _, by simpa [hr] using hq, by simp [hr]⟩
  | field i fsel a b he =>
    have hr := hrst (by simp [he])
    exact .inr ⟨observe_eq_nil (by simp [isAccept, he]) (by simp [he]) _, by simpa [hr] using hq, by simp [hr]⟩

/-- R261: a core with no command running shows no response before an accept. -/
theorem head?_observations_ne_response {s : State} (hq : s.rst = 1#1 ∨ s.busy = 0#1) (n : Nat) (b : Block) :
    (observations n s).head? ≠ some (.response b) := by
  induction n generalizing s with
  | zero => simp [observations]
  | succ n ih =>
    cases hst : step s with
    | fault f => simp [observations_succ_of_fault hst]
    | refused r => exact absurd hst (step_ne_refused s r)
    | next t =>
      rw [observations_succ_of_next hst]
      obtain ⟨c, hobs⟩ | ⟨hobs, hidle, -⟩ := step_of_not_running hq hst
      · simp [hobs]
      · rw [hobs, List.nil_append]
        exact ih (.inr hidle)

theorem core_run_succ_eq_next {n : Nat} {s u : State} (h : core.run (n + 1) s = .next u) :
    ∃ t, step s = .next t ∧ core.run n t = .next u := by
  rw [core_run_succ] at h
  cases hst : step s with
  | next t => exact ⟨t, rfl, by rw [hst] at h; exact h⟩
  | fault f => rw [hst] at h; cases h
  | refused r => rw [hst] at h; cases h

/-- A core with no command running that presents nothing, or is in reset, presents nothing after an event that is no
accept. -/
theorem step_without_accept {s t : State} (hq : s.rst = 1#1 ∨ s.busy = 0#1) (hv : s.rst = 1#1 ∨ s.rspv = 0#1)
    (h : step s = .next t) (hobs : ∀ c, .accepted c ∉ observe s t) : t.rspv = 0#1 ∧ t.busy = 0#1 := by
  obtain ⟨c, hacc⟩ | ⟨-, hbusy, hrspv⟩ := step_of_not_running hq h
  · exact absurd (by simp [hacc]) (hobs c)
  · exact ⟨hrspv hv, hbusy⟩

theorem run_without_accept {s u : State} (hq : s.rst = 1#1 ∨ s.busy = 0#1) (hv : s.rst = 1#1 ∨ s.rspv = 0#1)
    {n : Nat} (h : core.run (n + 1) s = .next u) (hobs : ∀ c, .accepted c ∉ observations (n + 1) s) :
    u.rspv = 0#1 ∧ u.busy = 0#1 := by
  induction n generalizing s with
  | zero =>
    obtain ⟨t, hst, hrun⟩ := core_run_succ_eq_next h
    cases hrun
    refine step_without_accept hq hv hst fun c hc => hobs c ?_
    exact observations_succ_of_next hst 0 ▸ List.mem_append_left _ hc
  | succ n ih =>
    obtain ⟨t, hst, hrun⟩ := core_run_succ_eq_next h
    rw [observations_succ_of_next hst] at hobs
    obtain ⟨hrspv, hbusy⟩ := step_without_accept hq hv hst fun c hc => hobs c (List.mem_append_left _ hc)
    exact ih (.inr hbusy) (.inr hrspv) hrun fun c hc => hobs c (List.mem_append_right _ hc)

/-! ### Several cores (60_exceptions.md R240) -/

/-- An event of core n is a step of the state at place n, or nothing where there is no core. -/
theorem systemStep_of_some {n : Nat} {sys : System} {s t : State} (hs : sys.cores[n]? = some s)
    (h : step s = .next t) : systemStep n sys = .next ⟨sys.cores.set n t⟩ := by
  simp [systemStep, hs, h]

theorem systemStep_of_none {n : Nat} {sys : System} (hs : sys.cores[n]? = none) : systemStep n sys = .next sys := by
  simp [systemStep, hs]

theorem systemStep_next_cases {n : Nat} {sys sys' : System} (h : systemStep n sys = .next sys') :
    (sys.cores[n]? = none ∧ sys' = sys) ∨
    (∃ s t, sys.cores[n]? = some s ∧ step s = .next t ∧ sys' = ⟨sys.cores.set n t⟩) := by
  cases hs : sys.cores[n]? with
  | none =>
    rw [systemStep_of_none hs] at h
    exact .inl ⟨rfl, (Host.Outcome.next.inj h).symm⟩
  | some s =>
    cases hst : step s with
    | next t =>
      rw [systemStep_of_some hs hst] at h
      exact .inr ⟨s, t, rfl, hst, (Host.Outcome.next.inj h).symm⟩
    | fault f => simp [systemStep, hs, hst] at h
    | refused r => exact absurd hst (step_ne_refused s r)

/-- An event of one core leaves every other as it was. -/
theorem systemStep_getElem?_of_ne {n m : Nat} {sys sys' : System} (h : systemStep n sys = .next sys') (hne : n ≠ m) :
    sys'.cores[m]? = sys.cores[m]? := by
  obtain ⟨-, rfl⟩ | ⟨s, t, -, -, rfl⟩ := systemStep_next_cases h
  · rfl
  · exact List.getElem?_set_ne hne

/-- Each of two cores steps from the state it had, whichever goes first, and their places are written apart. -/
theorem systemStep_comm {n m : Nat} {a b c : System} (hne : n ≠ m) (hn : systemStep n a = .next b)
    (hm : systemStep m b = .next c) : ∃ d, systemStep m a = .next d ∧ systemStep n d = .next c := by
  have hbm := systemStep_getElem?_of_ne hn hne
  obtain ⟨hnone, rfl⟩ | ⟨s, t, hs, hst, rfl⟩ := systemStep_next_cases hn
  · refine ⟨c, hm, systemStep_of_none ?_⟩
    rw [systemStep_getElem?_of_ne hm hne.symm, hnone]
  · obtain ⟨hnone, rfl⟩ | ⟨u, v, hu, huv, rfl⟩ := systemStep_next_cases hm
    · rw [hbm] at hnone
      exact ⟨a, systemStep_of_none hnone, hn⟩
    · rw [hbm] at hu
      have hd := systemStep_of_some hu huv
      refine ⟨_, hd, ?_⟩
      rw [systemStep_of_some ((systemStep_getElem?_of_ne hd hne.symm).trans hs) hst, List.set_comm _ _ hne]

end Sys2Proof.Machine

namespace Sys2Proof.Proofs

open Sys2Proof.Machine Sys2Proof.Claims

/-- Settles O50: after the reset no command is running, and so the first thing observed, if any, is an accept. -/
theorem abandonedCommandHasNoResponse : Obligations.AbandonedCommandHasNoResponse := by
  unfold Obligations.AbandonedCommandHasNoResponse
  exact fun s hr _ => ⟨fun n b => head?_observations_ne_response (.inl hr) n b,
    fun n u => run_without_accept (.inl hr) (.inl hr)⟩

/-- Settles O59: the places of two cores are read and written apart. -/
theorem coresAreIndependent : Obligations.CoresAreIndependent := by
  unfold Obligations.CoresAreIndependent
  exact ⟨fun n m sys sys' h hne => systemStep_getElem?_of_ne h hne.symm, fun n m a b c hne => systemStep_comm hne⟩

/-- Settles O35: the accept, written out. -/
theorem commandsAreAcceptedWhenReady : Obligations.CommandsAreAcceptedWhenReady := by
  unfold Obligations.CommandsAreAcceptedWhenReady
  exact fun s K D hb hr => ⟨command_of_ready 0#1 K D s hb hr, command_of_ready 1#1 K D s hb hr⟩

/-- Settles O39: the event of each of the three sources is the run of what its word decodes to. -/
theorem stepRunsTheDecodedInstruction : Obligations.StepRunsTheDecodedInstruction := by
  unfold Obligations.StepRunsTheDecodedInstruction
  refine ⟨fun s u i hs hr hb hu hi => ?_, fun s c i hs hr hb hc hi => ?_, fun s i hw hr hrun hi => ?_⟩
  · have he : nextEvent s = .run .microProgram i := by
      rw [nextEvent_of_busy hs hr hb, fetchEvent_of_some hu, uopEvent_of_ok hi]
    exact step_of_run s _ i he
  · have he : nextEvent s = .run .commandPort i := by
      rw [nextEvent_of_presented hs hr hb hc]
      exact congrArg _ (Except.ok.inj hi)
    exact step_of_run s _ i he
  · have he : nextEvent s = .run .fieldUnit i := by
      rw [nextEvent_of_fieldWaits hr hw (by simp [fieldWaits, hrun]), fieldEvent_of_ok hi]
    exact step_of_run s _ i he

/-- Settles O41: the idle step only lets the host move. -/
theorem idleCoreWaits : Obligations.IdleCoreWaits := by
  unfold Obligations.IdleCoreWaits
  exact fun s hs hr hb hc => ⟨_, step_of_idle s (nextEvent_of_no_command hs hr hb hc), by simp [sameRegisters]⟩

/-- Settles O48: with rst = 1 the step is the reset event. -/
theorem resetWinsAndClearsTheControlRegisters : Obligations.ResetWinsAndClearsTheControlRegisters := by
  unfold Obligations.ResetWinsAndClearsTheControlRegisters
  refine fun s hr => ⟨cmdReady_of_rst hr, _, step_of_rst hr, by simp, by simp, by simp, by simp, by simp,
    fun hreleased => ⟨by simp [isIdle], by simp [rspValid], (cmdReady_eq_one_iff _).2 ⟨by simp, hreleased⟩⟩⟩

/-- Settles O49: the reset event writes none of them. -/
theorem resetKeepsTheDatapath : Obligations.ResetKeepsTheDatapath := by
  unfold Obligations.ResetKeepsTheDatapath
  intro s t hr h
  rw [step_of_rst hr] at h
  cases h
  simp

/-- Settles O51: without a reset the event is the stop NotReset; with rst = 1 it is the reset. -/
theorem eventsBeforeTheFirstResetFault : Obligations.EventsBeforeTheFirstResetFault := by
  unfold Obligations.EventsBeforeTheFirstResetFault
  have hstop : ∀ s : State, s.wasReset = false → s.rst = 0#1 → step s = .fault .notReset :=
    fun s hw hr => step_of_stop s _ (nextEvent_of_wasReset_false hr hw)
  exact ⟨hstop, hstop _ rfl rfl, _, step_of_rst rfl, by simp [isIdle], by simp, by simp⟩

end Sys2Proof.Proofs
end

section
/-! SUPPORT. Round transformations in either order, and the cipher the other way round (41_round_transformations.md
R143, R149, R150; 95_test_vectors.md P5). -/

namespace Sys2Proof.Machine

/-! ### The inverses the other way round -/

theorem subBytes_invSubBytes (b : Block) : subBytes (invSubBytes b) = b := by
  ext i hi : 1
  rw [subBytes_getElem, invSubBytes_getElem, sbox_invSbox]

theorem shiftRows_invShiftRows (b : Block) : shiftRows (invShiftRows b) = b := by
  ext i hi : 1
  rw [shiftRows_getElem, invShiftRows_getElem]
  congr 1
  omega

theorem matrixProduct_forward_inverse : matrixProduct matrixForward matrixInverse = matrixOne := by decide

theorem mixColumn_forward_inverse (col : Word) : mixColumn matrixForward (mixColumn matrixInverse col) = col := by
  rw [mixColumn_mixColumn, matrixProduct_forward_inverse, mixColumn_matrixOne]

theorem mixColumns_invMixColumns (b : Block) : mixColumns (invMixColumns b) = b := by
  ext i hi : 1
  rw [mixColumns, mixBlock_getElem, invMixColumns]
  simp only [column_mixBlock, mixColumn_forward_inverse, column_getElem, Nat.div_add_mod]

/-! ### Encryption against decryption (95_test_vectors.md P5) -/

theorem shiftRows_subBytes_invSubBytes_invShiftRows (b : Block) :
    shiftRows (subBytes (invSubBytes (invShiftRows b))) = b := by
  rw [subBytes_invSubBytes, shiftRows_invShiftRows]

/-- The rounds of encryption run half a round ahead: each takes ISR and ISB of a round's result to ISR and ISB of what
that round began with. -/
theorem encryptRound_decryptRound (rk : RoundKeys) (b : Block) (round : Fin 11) :
    encryptRound rk (invSubBytes (invShiftRows (decryptRound rk b round))) round =
      invSubBytes (invShiftRows b) := by
  rw [encryptRound, shiftRows_subBytes_invSubBytes_invShiftRows, decryptRound, mixColumns_invMixColumns,
    addRoundKey_addRoundKey]

theorem encryptBlock_decryptBlock (b k : Block) : encryptBlock (decryptBlock b k) k = b := by
  have hrounds := foldl_reverse_foldl (h := fun b => invSubBytes (invShiftRows b))
    (encryptRound_decryptRound (generateSubkeys k)) middleRounds.reverse
  rw [List.reverse_reverse] at hrounds
  rw [encryptBlock_eq_foldl, decryptBlock_eq_foldl, addRoundKey_addRoundKey, hrounds,
    shiftRows_subBytes_invSubBytes_invShiftRows, addRoundKey_addRoundKey]

/-! ### Two transformations in either order (R150) -/

theorem shiftRows_subBytes (b : Block) : shiftRows (subBytes b) = subBytes (shiftRows b) := by
  ext i hi : 1
  simp only [shiftRows_getElem, subBytes_getElem]

theorem invShiftRows_invSubBytes (b : Block) : invShiftRows (invSubBytes b) = invSubBytes (invShiftRows b) := by
  ext i hi : 1
  simp only [invShiftRows_getElem, invSubBytes_getElem]

theorem addRoundKey_right_comm (b j k : Block) :
    addRoundKey (addRoundKey b j) k = addRoundKey (addRoundKey b k) j := by
  ext i hi : 1
  simp only [addRoundKey_getElem, BitVec.xor_assoc, BitVec.xor_comm j[i]]

/-- Four rotations of a row of four (R143). -/
theorem shiftRows_four (b : Block) : shiftRows (shiftRows (shiftRows (shiftRows b))) = b := by
  ext i hi : 1
  simp only [shiftRows_getElem]
  congr 1
  omega

/-- Of two writes of STATE the later one stays. -/
theorem advance_writeState_twice (b c : Block) (s : State) :
    advance (writeState c (advance (writeState b s))) = advance (advance (writeState c s)) := rfl

/-- Two round uops whose functions commute give one state in either order. -/
theorem execAll_round_comm {i j : Instr} {f g : Block → Block} (hi : exec i = roundUop f) (hj : exec j = roundUop g)
    (hgf : ∀ b, g (f b) = f (g b)) (s : State) :
    ∃ t, execAll [i, j] s = .next t ∧ execAll [j, i] s = .next t := by
  refine ⟨_, execAll_pair (congrFun hi s) (congrFun hj _), ?_⟩
  rw [execAll_pair (congrFun hj s) (congrFun hi _)]
  simp only [advance_state, writeState_state, advance_writeState_twice, hgf]

/-- So do two ARKs, which read the round-key file and do not write it. -/
theorem execAll_ark_comm (j k : Fin 11) (s : State) : ∃ t,
    execAll [.ark (BitVec.ofNat 4 j.val), .ark (BitVec.ofNat 4 k.val)] s = .next t ∧
    execAll [.ark (BitVec.ofNat 4 k.val), .ark (BitVec.ofNat 4 j.val)] s = .next t := by
  refine ⟨_, execAll_pair (exec_ark j s) (exec_ark k _), ?_⟩
  rw [execAll_pair (exec_ark k s) (exec_ark j _)]
  simp only [advance_state, advance_rk, writeState_state, writeState_rk, advance_writeState_twice,
    addRoundKey_right_comm s.state s.rk[k]]

end Sys2Proof.Machine

namespace Sys2Proof.Proofs

open Sys2Proof.Machine

/-- Settles O46: the rounds of encryption undo those of decryption from the last one back. -/
theorem encryptUndoesDecrypt : Obligations.EncryptUndoesDecrypt := by
  unfold Obligations.EncryptUndoesDecrypt
  exact encryptBlock_decryptBlock

/-- Settles O29: bytewise functions commute with moving bytes, and sums with sums; the block 1, or the block 0 and the
key 1, show that each other pair does not commute. -/
theorem roundCommutations : Obligations.RoundCommutations := by
  unfold Obligations.RoundCommutations
  refine ⟨fun s => ⟨execAll_round_comm rfl rfl shiftRows_subBytes s,
    execAll_round_comm rfl rfl invShiftRows_invSubBytes s⟩, fun s j k => execAll_ark_comm j k s,
    fun s => ⟨_, rfl, shiftRows_four s.state⟩, ⟨bytes 1, ?_⟩, ⟨bytes 0, bytes 1, ?_⟩,
    ⟨bytes 0, bytes 1, ?_⟩, ⟨bytes 0, bytes 1, ?_⟩, ⟨bytes 0, bytes 1, ?_⟩,
    ⟨bytes 0, bytes 1, ?_⟩, ⟨bytes 0, bytes 1, ?_⟩⟩
  · decide
  · decide
  · decide
  · decide
  · decide
  · decide
  · decide

end Sys2Proof.Proofs
end

section
/-! SUPPORT. The run of a command (43_sequencer.md R193 to R204; 00_scope.md R19): the micro-program as a function of
STATE and RK, the 51 steps behind an accept under a host that does not reset, and commands one behind the other. -/

namespace Sys2Proof.Machine

open Sys2Proof.Claims

/-! ### The micro-programs as lists of instructions (R197, R198) -/

/-- The uops of the micro-program OP selects. -/
def microProgram (op : BitVec 1) : List Instr := if op = 0#1 then encryptProgram else decryptProgram

theorem microProgram_length : ∀ op : BitVec 1, (microProgram op).length = 51 := by decide

theorem microProgram_wellFormed : ∀ op : BitVec 1, ∀ i ∈ microProgram op, wellFormed i = true := by decide

/-- The uops before FIN compute. -/
theorem microProgram_datapathUop : ∀ op : BitVec 1, ∀ i ∈ (microProgram op).take 50, IsDatapathUop i := by
  unfold IsDatapathUop
  decide

theorem map_encode_microProgram (op : BitVec 1) :
    (microProgram op).map encode = (spaceContents (programOf op)).map .uop := by
  obtain ⟨henc, hdec, -⟩ := Proofs.microProgramsAreTheListedUops
  unfold microProgram programOf
  split
  · exact henc
  · exact hdec

/-- A running core runs the instruction that stands at UPC. -/
theorem nextEvent_of_microProgram {s : State} {i : Instr} (hs : ready s) (hr : s.rst = 0#1) (hb : s.busy = 1#1)
    (hi : (microProgram s.op)[s.upc.toNat]? = some i) : nextEvent s = .run .microProgram i := by
  have hword := congrArg (·[s.upc.toNat]?) (map_encode_microProgram s.op)
  simp only [List.getElem?_map, hi, Option.map_some] at hword
  obtain ⟨u, hu, henc⟩ := Option.map_eq_some_iff.1 hword.symm
  have hdec : decodeUop u = .ok i := by
    have hd := decode_encode (microProgram_wellFormed _ _ (List.mem_of_getElem? hi))
    rwa [← henc] at hd
  rw [nextEvent_of_busy hs hr hb, fetchEvent_of_some hu, uopEvent_of_ok hdec]

/-! ### The micro-programs as functions (R200, R201) -/

/-- The round of a pseudo-instruction, as the index of its round key. -/
def PseudoRound.round (r : PseudoRound) : Fin 11 := ⟨r.index.toNat, by have := r.legal; omega⟩

theorem pseudoRounds_map_round : pseudoRounds.map PseudoRound.round = middleRounds := by decide

theorem uopDatapath_ark_round (b : Block) (rk : RoundKeys) (r : PseudoRound) :
    uopDatapath (b, rk) (.ark r.index) = (addRoundKey b rk[r.round], rk) :=
  dif_pos (by have := r.legal; omega)

theorem foldl_encRound (b : Block) (rk : RoundKeys) (r : PseudoRound) :
    (expand (.encRound r)).foldl uopDatapath (b, rk) = (encryptRound rk b r.round, rk) :=
  uopDatapath_ark_round (mixColumns (shiftRows (subBytes b))) rk r

theorem foldl_decRound (b : Block) (rk : RoundKeys) (r : PseudoRound) :
    (expand (.decRound r)).foldl uopDatapath (b, rk) = (decryptRound rk b r.round, rk) := by
  have hark := uopDatapath_ark_round (invSubBytes (invShiftRows b)) rk r
  calc (expand (.decRound r)).foldl uopDatapath (b, rk)
    _ = uopDatapath (uopDatapath (invSubBytes (invShiftRows b), rk) (.ark r.index)) .imc := rfl
    _ = (decryptRound rk b r.round, rk) := by rw [hark]; rfl

theorem foldl_encFinal (b : Block) (rk : RoundKeys) :
    (expand .encFinal).foldl uopDatapath (b, rk) = (addRoundKey (shiftRows (subBytes b)) rk[10], rk) := rfl

theorem foldl_decFinal (b : Block) (rk : RoundKeys) :
    (expand .decFinal).foldl uopDatapath (b, rk) = (addRoundKey (invSubBytes (invShiftRows b)) rk[0], rk) := rfl

/-- Rounds that each leave the round keys alone fold over STATE. -/
theorem foldl_flatMap_rounds {e : PseudoRound → Pseudo} {f : RoundKeys → Block → Fin 11 → Block}
    (he : ∀ b rk r, (expand (e r)).foldl uopDatapath (b, rk) = (f rk b r.round, rk))
    (l : List PseudoRound) (b : Block) (rk : RoundKeys) :
    (l.flatMap fun r => expand (e r)).foldl uopDatapath (b, rk) = ((l.map PseudoRound.round).foldl (f rk) b, rk) := by
  induction l generalizing b with
  | nil => rfl
  | cons r l ih => rw [List.flatMap_cons, List.foldl_append, he, ih, List.map_cons, List.foldl_cons]

theorem foldl_encryptProgram (b : Block) (rk : RoundKeys) :
    ((encryptProgram.take 50).foldl uopDatapath (b, rk)).1 = encryptBlock b rk[0] := by
  have hbody : encryptProgram.take 50 = expand .kexpand ++ [.ark 0#4] ++
      (pseudoRounds.flatMap fun r => expand (.encRound r)) ++ expand .encFinal := rfl
  have hark : ∀ b rk, [Instr.ark 0#4].foldl uopDatapath (b, rk) = (addRoundKey b rk[0], rk) := fun _ _ => rfl
  rw [hbody, List.foldl_append, List.foldl_append, List.foldl_append, foldl_kexpand, hark,
    foldl_flatMap_rounds foldl_encRound, foldl_encFinal, pseudoRounds_map_round, encryptBlock_eq_foldl]

theorem foldl_decryptProgram (b : Block) (rk : RoundKeys) :
    ((decryptProgram.take 50).foldl uopDatapath (b, rk)).1 = decryptBlock b rk[0] := by
  have hbody : decryptProgram.take 50 = expand .kexpand ++ [.ark 10#4] ++
      (pseudoRounds.reverse.flatMap fun r => expand (.decRound r)) ++ expand .decFinal := rfl
  have hark : ∀ b rk, [Instr.ark 10#4].foldl uopDatapath (b, rk) = (addRoundKey b rk[10], rk) := fun _ _ => rfl
  rw [hbody, List.foldl_append, List.foldl_append, List.foldl_append, foldl_kexpand, hark,
    foldl_flatMap_rounds foldl_decRound, foldl_decFinal, List.map_reverse, pseudoRounds_map_round,
    decryptBlock_eq_foldl]

/-- From the key in RK[0] and the data in STATE, the uops before FIN leave the cipher in STATE. -/
theorem foldl_microProgram (op : BitVec 1) (b : Block) (rk : RoundKeys) :
    (((microProgram op).take 50).foldl uopDatapath (b, rk)).1 = cipher op rk[0] b := by
  unfold microProgram cipher
  split
  · exact foldl_encryptProgram b rk
  · exact foldl_decryptProgram b rk

/-! ### A host that does not reset (70_reset_and_hazards.md R266) -/

/-- A condition on the ports and the host's coming moves that an event which leaves them alone keeps, and under which
rst stays released. -/
structure HostCondition (P : State → Prop) : Prop where
  rst : ∀ {s}, P s → s.rst = 0#1
  endEvent : ∀ {s u}, P s → u.rst = s.rst → u.cmd = s.cmd → u.script = s.script → P (endEvent u)

theorem hostCondition_noResetAhead : HostCondition noResetAhead where
  rst h := h.1
  endEvent := by
    rintro s u ⟨hr, hm⟩ hrst - hscript
    exact endEvent_rst_of_not_mem u (hrst.trans hr) (hscript ▸ hm)

/-- The commands `cs` are the ones to come: the first is on the ports, and the others are the host's coming moves. -/
def Queued (cs : List Command) (s : State) : Prop :=
  s.rst = 0#1 ∧ s.cmd = cs.head? ∧ s.script = cs.tail.map .present

/-- With nothing on the ports the host presents its next command. -/
theorem queued_endEvent_of_none {cs : List Command} {s : State} (hr : s.rst = 0#1) (hc : s.cmd = none)
    (hs : s.script = cs.map .present) : Queued cs (endEvent s) := by
  cases cs with
  | nil => simp [Queued, endEvent, hostMove, hs, hr, hc]
  | cons c cs => simp [Queued, endEvent, hostMove, hs, hr, hc]

/-- While a command is on the ports the others wait. -/
theorem queued_endEvent {cs : List Command} {s : State} (h : Queued cs s) : Queued cs (endEvent s) := by
  obtain ⟨hr, hc, hs⟩ := h
  match cs with
  | [] => exact queued_endEvent_of_none hr hc hs
  | [c] => simpa [Queued, endEvent_of_script_nil s hs] using ⟨hr, hc, hs⟩
  | c :: d :: cs => simpa [Queued, endEvent, hostMove, hs, hc] using hr

theorem hostCondition_queued (cs : List Command) : HostCondition (Queued cs) where
  rst h := h.1
  endEvent := by
    rintro s u ⟨hr, hc, hs⟩ hrst hcmd hscript
    exact queued_endEvent ⟨hrst.trans hr, hcmd.trans hc, hscript.trans hs⟩

/-! ### The steps of a command (R193 to R196) -/

/-- A command of the direction `op` runs, stands at UPC = `n` and presents nothing; STATE and RK hold `d`. -/
structure Running (op : BitVec 1) (n : Nat) (d : Datapath) (s : State) : Prop where
  ready : ready s
  op : s.op = op
  busy : s.busy = 1#1
  rspv : s.rspv = 0#1
  upc : s.upc.toNat = n
  datapath : (s.state, s.rk) = d

/-- One step of a running command: the uop at UPC computes, and nothing is observed. -/
theorem Running.step {P : State → Prop} (hP : HostCondition P) {op : BitVec 1} {n : Nat} {d : Datapath} {s : State}
    (h : Running op n d s) (hs : P s) {i : Instr} (hi : (microProgram op)[n]? = some i) (hu : IsDatapathUop i)
    (hn : n < 50) :
    ∃ t, Machine.step s = .next t ∧ observe s t = [] ∧ Running op (n + 1) (uopDatapath d i) t ∧ P t := by
  obtain ⟨hready, rfl, hbusy, hrspv, rfl, rfl⟩ := h
  have he := nextEvent_of_microProgram hready (hP.rst hs) hbusy hi
  obtain ⟨-, -, hfin⟩ := id hu
  refine ⟨endEvent (advance (writeDatapath (uopDatapath (s.state, s.rk) i) s)), ?_, ?_, ?_, ?_⟩
  · rw [step_of_run s _ i he, exec_uop_datapath hu, mapNext_next, retire_microProgram]
  · exact observe_eq_nil (by simp [isAccept, he]) (by simp [he, hfin]) _
  · exact {
      ready := ready_endEvent (s := advance (writeDatapath _ s)) hready
      op := by simp [writeDatapath]
      busy := by simpa [writeDatapath] using hbusy
      rspv := by simpa [writeDatapath] using hrspv
      upc := by rw [endEvent_upc, advance_upc]; exact toNat_upc_succ hn
      datapath := by simp [writeDatapath] }
  · exact hP.endEvent hs rfl rfl rfl

/-- A run of one step more is the run and then a step. -/
theorem core_run_succ_of_next {n : Nat} {s t : State} (h : core.run n s = .next t) :
    core.run (n + 1) s = step t := by
  induction n generalizing s with
  | zero =>
    obtain rfl : s = t := Host.Outcome.next.inj h
    rw [core_run_succ]
    cases step s <;> rfl
  | succ n ih =>
    obtain ⟨u, hst, hrun⟩ := core_run_succ_eq_next h
    rw [core_run_succ, hst]
    exact ih hrun

/-- The run of a command from its first uop to the one at index n: nothing is observed on the way. -/
theorem Running.run {P : State → Prop} (hP : HostCondition P) {op : BitVec 1} {d : Datapath} {s : State}
    (h : Running op 0 d s) (hs : P s) {n : Nat} (hn : n ≤ 50) :
    ∃ t : State, core.run n s = .next t ∧ Running op n (((microProgram op).take n).foldl uopDatapath d) t ∧ P t ∧
      ∀ m, observations (n + m) s = observations m t := by
  induction n with
  | zero => exact ⟨s, rfl, h, hs, fun m => by rw [Nat.zero_add]⟩
  | succ n ih =>
    obtain ⟨t, hrun, ht, hPt, hobs⟩ := ih (by omega)
    have hlen : n < (microProgram op).length := by rw [microProgram_length]; omega
    have huop := microProgram_datapathUop op _ (List.mem_take_iff_getElem.2 ⟨n, by omega, rfl⟩)
    obtain ⟨u, hst, hnil, hu, hPu⟩ := ht.step hP hPt (List.getElem?_eq_getElem hlen) huop hn
    refine ⟨u, (core_run_succ_of_next hrun).trans hst, ?_, hPu, fun m => ?_⟩
    · rwa [← List.take_append_getElem hlen, List.foldl_concat]
    · rw [Nat.add_assoc, Nat.add_comm 1 m, hobs, observations_succ_of_next hst, hnil, List.nil_append]

/-- What FIN leaves of a command of the direction `op` whose result is `b` (R196, R203). -/
structure Answered (op : BitVec 1) (b : Block) (s : State) : Prop where
  ready : ready s
  op : s.op = op
  busy : s.busy = 0#1
  upc : s.upc = 0#6
  rspv : s.rspv = 1#1
  dout : s.dout = b

/-- The last step of a running command: FIN presents STATE, which is the response. -/
theorem Running.finish {P : State → Prop} (hP : HostCondition P) {op : BitVec 1} {d : Datapath} {s : State}
    (h : Running op 50 d s) (hs : P s) :
    ∃ t, Machine.step s = .next t ∧ observe s t = [.response d.1] ∧ Answered op d.1 t ∧ P t := by
  obtain ⟨hready, rfl, hbusy, -, hupc, rfl⟩ := h
  have he := nextEvent_of_busy_at_fin hready (hP.rst hs) hbusy hupc
  refine ⟨_, step_of_run_fin he, ?_, ?_, hP.endEvent hs rfl rfl rfl⟩
  · rw [observe_of_fin he, endEvent_dout, finish_dout]
  · exact {
      ready := ready_endEvent (s := Machine.finish s) hready
      op := by simp
      busy := by simp
      upc := by simp
      rspv := by simp
      dout := by simp }

/-- The state after the event that accepts `c`. -/
def acceptedState (c : Command) (s : State) : State :=
  endEvent (retire .commandPort (accept c.op (bytes c.key) (bytes c.data) s))

/-- An accepted command runs from the first uop, on its own key and data. -/
theorem running_acceptedState {s : State} (hs : ready s) (c : Command) :
    Running c.op 0 (bytes c.data, s.rk.set 0 (bytes c.key)) (acceptedState c s) where
  ready := ready_endEvent (s := retire .commandPort (accept c.op (bytes c.key) (bytes c.data) s)) hs
  op := by simp [acceptedState]
  busy := by simp [acceptedState]
  rspv := by simp [acceptedState]
  upc := by simp [acceptedState]
  datapath := by simp [acceptedState]

theorem step_eq_acceptedState {s : State} {c : Command} (hs : ready s) (hr : s.rst = 0#1) (hb : s.busy = 0#1)
    (hc : s.cmd = some c) : step s = .next (acceptedState c s) ∧ observe s (acceptedState c s) = [.accepted c] :=
  ⟨step_of_presented hs hr hb hc, observe_of_accept (nextEvent_of_presented hs hr hb hc) hc _⟩

section
variable {P : State → Prop} {s : State} {c : Command}

/-- From the event that accepts a command, n further steps of its run: all that is observed is the accept. -/
theorem run_of_presented (hP : HostCondition P) (hs : ready s) (hr : s.rst = 0#1) (hb : s.busy = 0#1)
    (hc : s.cmd = some c) (hacc : P (acceptedState c s)) {n : Nat} (hn : n ≤ 50) :
    ∃ t : State, core.run (n + 1) s = .next t ∧
      Running c.op n (((microProgram c.op).take n).foldl uopDatapath (bytes c.data, s.rk.set 0 (bytes c.key))) t ∧
      P t ∧ ∀ m, observations (n + 1 + m) s = .accepted c :: observations m t := by
  obtain ⟨hst, hobs⟩ := step_eq_acceptedState hs hr hb hc
  obtain ⟨t, hrun, ht, hPt, hrest⟩ := (running_acceptedState hs c).run hP hacc hn
  refine ⟨t, ?_, ht, hPt, fun m => ?_⟩
  · rw [core_run_succ, hst]
    exact hrun
  · rw [Nat.add_right_comm, observations_succ_of_next hst, hobs, hrest, List.singleton_append]

/-- The 52 events of a command: its accept, and as FIN's the response. -/
theorem answered_of_presented (hP : HostCondition P) (hs : ready s) (hr : s.rst = 0#1) (hb : s.busy = 0#1)
    (hc : s.cmd = some c) (hacc : P (acceptedState c s)) :
    ∃ t : State, core.run 52 s = .next t ∧ Answered c.op (cipher c.op (bytes c.key) (bytes c.data)) t ∧ P t ∧
      ∀ m, observations (52 + m) s =
        [.accepted c, .response (cipher c.op (bytes c.key) (bytes c.data))] ++ observations m t := by
  obtain ⟨u, hrun, hu, hPu, hrest⟩ := run_of_presented hP hs hr hb hc hacc (n := 50) le_rfl
  obtain ⟨t, hst, hobs, ht, hPt⟩ := hu.finish hP hPu
  rw [foldl_microProgram, Vector.getElem_set_self] at hobs ht
  refine ⟨t, (core_run_succ_of_next hrun).trans hst, ht, hPt, fun m => ?_⟩
  have hm : 52 + m = 50 + 1 + (m + 1) := by omega
  rw [hm, hrest, observations_succ_of_next hst, hobs]
  rfl

end

theorem noResetAhead_acceptedState {s : State} (h : noResetAhead s) (c : Command) :
    noResetAhead (acceptedState c s) := by
  obtain ⟨hr, hm⟩ := h
  exact endEvent_rst_of_not_mem (retire .commandPort (accept c.op (bytes c.key) (bytes c.data) s)) hr hm

/-- With no reset ahead the 52 events of a command show its accept and its response. -/
theorem observations_of_presented {s : State} {c : Command} (hs : ready s) (hn : noResetAhead s) (hb : s.busy = 0#1)
    (hc : s.cmd = some c) :
    observations 52 s = [.accepted c, .response (cipher c.op (bytes c.key) (bytes c.data))] := by
  obtain ⟨t, -, -, -, hobs⟩ :=
    answered_of_presented hostCondition_noResetAhead hs hn.1 hb hc (noResetAhead_acceptedState hn c)
  exact hobs 0

/-! ### Commands one behind the other (20_memory.md R64) -/

/-- The accept takes the first of the commands to come off the ports, and the host presents the next. -/
theorem queued_acceptedState {s : State} {c : Command} {cs : List Command} (h : Queued (c :: cs) s) :
    Queued cs (acceptedState c s) := by
  obtain ⟨hr, -, hs⟩ := h
  exact queued_endEvent_of_none (s := retire .commandPort (accept c.op (bytes c.key) (bytes c.data) s)) hr rfl hs

/-- Each command of the queue takes 52 events, and the core is idle again behind them. -/
theorem observations_of_queued (cs : List Command) {s : State} (hs : ready s) (hb : s.busy = 0#1)
    (hq : Queued cs s) : observations (52 * cs.length) s =
      cs.flatMap fun c => [.accepted c, .response (cipher c.op (bytes c.key) (bytes c.data))] := by
  induction cs generalizing s with
  | nil => rfl
  | cons c cs ih =>
    have hacc := queued_acceptedState hq
    obtain ⟨hr, hc, -⟩ := hq
    obtain ⟨t, -, ht, hqt, hobs⟩ := answered_of_presented (hostCondition_queued cs) hs hr hb hc hacc
    rw [List.length_cons, Nat.mul_succ, Nat.add_comm, hobs, ih ht.ready ht.busy hqt, List.flatMap_cons]

end Sys2Proof.Machine

namespace Sys2Proof.Proofs

open Sys2Proof.Machine Sys2Proof.Claims

/-- Settles O42: the accept, the uops before FIN as a function of STATE and RK, and FIN. -/
theorem commandsComputeTheCipherInFiftyOneSteps : Obligations.CommandsComputeTheCipherInFiftyOneSteps := by
  unfold Obligations.CommandsComputeTheCipherInFiftyOneSteps
  intro s c hs hn hb hc
  have hacc := noResetAhead_acceptedState hn c
  refine ⟨fun n hle => ?_, ?_⟩
  · obtain ⟨u, hrun, hu, -⟩ := run_of_presented hostCondition_noResetAhead hs hn.1 hb hc hacc hle
    exact ⟨u, hrun, hu.busy, hu.rspv, hu.upc⟩
  · obtain ⟨t, hrun, ht, -⟩ := answered_of_presented hostCondition_noResetAhead hs hn.1 hb hc hacc
    exact ⟨t, hrun, ht.busy, ht.upc, ht.rspv, ht.op, fun hop => by rw [ht.dout, cipher, if_pos hop],
      fun hop => by rw [ht.dout, cipher, hop, if_neg (by decide)]⟩

/-- Settles O43: one idle event presents the first command, and each command's events present the next. -/
theorem responsesComeInAcceptOrder : Obligations.ResponsesComeInAcceptOrder := by
  unfold Obligations.ResponsesComeInAcceptOrder
  intro s cs hs hr hb hc hscript
  have he := nextEvent_of_no_command hs hr hb hc
  have hnil : observe s (endEvent s) = [] := observe_eq_nil (by simp [isAccept, he]) (by simp [he]) _
  rw [Nat.add_comm, observations_succ_of_next (step_of_idle s he), hnil, List.nil_append]
  exact observations_of_queued cs (ready_endEvent hs) (by simpa using hb) (queued_endEvent_of_none hr hc hscript)

/-- Settles O44: the observation of the 52 events is a function of the command alone. -/
theorem responseDependsOnlyOnTheCommand : Obligations.ResponseDependsOnlyOnTheCommand := by
  unfold Obligations.ResponseDependsOnlyOnTheCommand
  intro s t c hs ht hns hnt hbs hbt hcs hct
  rw [observations_of_presented hs hns hbs hcs, observations_of_presented ht hnt hbt hct]

end Sys2Proof.Proofs
end
